-- ==== Sys2Proof/Word.lean ====
section
/-! DEFINITION. The byte and the byte string of EBMV-FSPU (spec/00_scope.md R13). -/

namespace Sys2Proof

/-- A byte, 0 to 255 (00_scope.md R13). -/
abbrev Byte := BitVec 8

/-- A byte string: the leftmost byte arrived first and has index 0 (00_scope.md R13). -/
abbrev ByteString := List Byte

end Sys2Proof
end

