-- ==== Sys2Proof/Config.lean ====
section
/-! DEFINITION. The configuration structure `cfg`, the block's only control-register file
(spec/10_state.md R27), the sizing parameters (spec/00_scope.md R9) and the reference-protocol values
(spec/00_scope.md R10). Which configurations are well-formed (R28) is decided in Machine/Operands.lean. -/

namespace Sys2Proof

/-- `MLEN`, the length of each marker in bytes (00_scope.md R9). -/
abbrev markerLength : Nat := 4

/-- `2 ^ SIZE_BITS`: every size the block computes lies below it (00_scope.md R9, 10_state.md R28). -/
abbrev sizeLimit : Nat := 4294967296

/-- A marker: four bytes, `b0` first on the wire (30_encoding.md R71, R72). -/
structure Marker where
  b0 : Byte
  b1 : Byte
  b2 : Byte
  b3 : Byte
  deriving DecidableEq, Repr

/-- `cfg.BYTE_ORDER` (10_state.md R27 field 5). -/
inductive ByteOrder where
  /-- The first byte of a cell is the high byte; encoded 0. -/
  | bigFirst
  /-- The first byte of a cell is the low byte; encoded 1. -/
  | littleFirst
  deriving DecidableEq, Repr

/-- `cfg.SHORT_POLICY` (10_state.md R27 field 6). -/
inductive ShortPolicy where
  /-- A short payload is rejected; encoded 0. -/
  | reject
  /-- A short payload is padded with zeros; encoded 1. -/
  | pad
  deriving DecidableEq, Repr

/-- `cfg.FORMAT` (10_state.md R27 field 7). -/
inductive PayloadFormat where
  /-- Encoded 0. -/
  | rgb565
  /-- Encoded 1. -/
  | mask
  deriving DecidableEq, Repr

/-- The configuration structure (10_state.md R27), fields in the order of their numbers 0 to 7. -/
structure Cfg where
  /-- Field 0, `START`. -/
  startMarker : Marker
  /-- Field 1, `END`. -/
  endMarker : Marker
  /-- Field 2, `WIDTH`. -/
  width : Nat
  /-- Field 3, `HEIGHT`. -/
  height : Nat
  /-- Field 4, `BPP`. -/
  bpp : Nat
  /-- Field 5, `BYTE_ORDER`. -/
  byteOrder : ByteOrder
  /-- Field 6, `SHORT_POLICY`. -/
  shortPolicy : ShortPolicy
  /-- Field 7, `FORMAT`. -/
  format : PayloadFormat
  deriving DecidableEq, Repr

/-- The reference START marker `AA 55 AA 55` (00_scope.md R10, 30_encoding.md R71). -/
def referenceStart : Marker := ⟨0xAA, 0x55, 0xAA, 0x55⟩

/-- The reference END marker `55 AA 55 AA` (00_scope.md R10, 30_encoding.md R72). -/
def referenceEnd : Marker := ⟨0x55, 0xAA, 0x55, 0xAA⟩

/-- The defaults of 10_state.md R27 with the two fields that have none given as arguments
(00_scope.md R10: "both are therefore mandatory fields without default"). -/
def referenceCfg (order : ByteOrder) (policy : ShortPolicy) : Cfg :=
  { startMarker := referenceStart, endMarker := referenceEnd, width := 160, height := 120, bpp := 2,
    byteOrder := order, shortPolicy := policy, format := .rgb565 }

end Sys2Proof
end

