-- ==== Sys2Proof/Syntax.lean ====
section
/-! DEFINITION. The instructions, one constructor for each of the 20 rows of spec/opcode_table.json
(spec/30_encoding.md R85, R90, R91), and the form in which the host hands them to the block. -/

namespace Sys2Proof

/-- What one `read` of the byte source gives the host loop (43_system.md R167, R169). -/
inductive SourceRead where
  /-- The bytes of one read, possibly none (a timeout). -/
  | chunk (bytes : ByteString)
  /-- `SourceClosed`, the transport failure of R169. -/
  | closed
  deriving DecidableEq, Repr

/-- The instructions: the seven operations and the reserved codes (R85), the pseudo-operations (R90) and
the wire tokens (R91). -/
inductive Instr where
  /-- RESET `c` (43_system.md R160). -/
  | reset (c : Cfg)
  /-- FEED `b` (40_synchronizer.md R101). -/
  | feed (b : Byte)
  /-- TRY_EXTRACT (40_synchronizer.md R103). -/
  | tryExtract
  /-- DECODE.RGB565 `payload`, `expected_size` (41_codec_rgb565.md R120). -/
  | decodeRgb565 (payload : ByteString) (expectedSize : Nat)
  /-- DECODE.MASK `payload` (42_codec_mask.md R141). -/
  | decodeMask (payload : ByteString)
  /-- MASK_ROW `line` (42_codec_mask.md R140). -/
  | maskRow (line : ByteString)
  /-- STATUS (43_system.md R161). -/
  | status
  /-- The reserved command code 7 (43_system.md R162). -/
  | reserved7
  /-- The reserved command codes 8 to 15; `low` is the code's bits 2 to 0 (43_system.md R162). -/
  | reserved8to15 (low : BitVec 3)
  /-- FEEDN of a chunk (40_synchronizer.md R102). -/
  | feedn (chunk : ByteString)
  /-- DRAIN (40_synchronizer.md R108). -/
  | drain
  /-- PIPE (43_system.md R164). -/
  | pipe
  /-- RUN over the given reads, the stop signal being seen when they are used up (43_system.md R167,
  log 10). -/
  | run (reads : List SourceRead)
  /-- The wire token START, reference value (30_encoding.md R71). -/
  | wireStart
  /-- The wire token END, reference value (30_encoding.md R72). -/
  | wireEnd
  /-- An RGB565 cell sent high byte first (30_encoding.md R75, R76). -/
  | wireCellBig (r5 : BitVec 5) (g6 : BitVec 6) (b5 : BitVec 5)
  /-- An RGB565 cell sent low byte first (30_encoding.md R75, R76). -/
  | wireCellLittle (r5 : BitVec 5) (g6 : BitVec 6) (b5 : BitVec 5)
  /-- The mask character `'0'` (30_encoding.md R80). -/
  | wireMaskChar0
  /-- The mask character `'1'` (30_encoding.md R80). -/
  | wireMaskChar1
  /-- The mask newline (30_encoding.md R80). -/
  | wireMaskNewline
  deriving DecidableEq, Repr

/-! The encoded forms. R85 gives the 4-bit `op`; R27, R86 and R87 give the widths and the numbers of the
operands; R86 leaves their transport open, so they stand beside `op` as lines of a port (log 6). -/

/-- The lines that carry a configuration (10_state.md R27: widths; 30_encoding.md R87: numbers). A marker
is a 32-bit pattern, first byte on the wire most significant (30_encoding.md R71). -/
structure CfgLines where
  startMarker : BitVec 32
  endMarker : BitVec 32
  width : BitVec 16
  height : BitVec 16
  bpp : BitVec 8
  byteOrder : BitVec 1
  shortPolicy : BitVec 1
  format : BitVec 1
  deriving DecidableEq, Repr

/-- One command on the command interface: the code and every operand line. An operation reads the lines
of its own operands and no other (30_encoding.md R85). -/
structure Command where
  op : BitVec 4
  cfg : CfgLines
  byte : BitVec 8
  size : BitVec 32
  bytes : ByteString
  deriving DecidableEq, Repr

/-- A line of a host script that names a pseudo-operation: "none has a command code"
(30_encoding.md R90). -/
inductive ScriptLine where
  | feedn (chunk : ByteString)
  | drain
  | pipe
  | run (reads : List SourceRead)
  deriving DecidableEq, Repr

/-- One item the host hands to the block. -/
inductive HostItem where
  /-- A command of the command interface. -/
  | command (c : Command)
  /-- Bytes on the wire, to be read as one token; `order` is the sender's byte order for a 16-bit cell,
  numbered as `cfg.BYTE_ORDER` is. -/
  | token (order : BitVec 1) (bytes : ByteString)
  /-- A pseudo-operation. -/
  | script (line : ScriptLine)
  deriving DecidableEq, Repr

end Sys2Proof
end

