-- ==== Sys2Proof/WellFormed.lean ====
section
/-! DEFINITION. Which instructions the encoding can carry (spec/30_encoding.md R86, spec/10_state.md R27
widths). This is not the well-formedness of a configuration (R28), which RESET itself checks. -/

namespace Sys2Proof

/-- The configuration's numbers fit the widths of 10_state.md R27. -/
def Cfg.encodable (c : Cfg) : Bool :=
  decide (c.width < 65536) && decide (c.height < 65536) && decide (c.bpp < 256)

/-- A byte-string operand has "any length from 0 up, bounded only by 2^32 - 1" (30_encoding.md R86). -/
def operandFits (bytes : ByteString) : Bool := decide (bytes.length < sizeLimit)

/-- The instruction's operands are ones the encoding can carry. -/
def Instr.wellFormed : Instr → Bool
  | .reset c => c.encodable
  | .feed _ => true
  | .tryExtract => true
  | .decodeRgb565 payload expectedSize => operandFits payload && decide (expectedSize < sizeLimit)
  | .decodeMask payload => operandFits payload
  | .maskRow line => operandFits line
  | .status => true
  | .reserved7 => true
  | .reserved8to15 _ => true
  | .feedn _ => true
  | .drain => true
  | .pipe => true
  | .run _ => true
  | .wireStart => true
  | .wireEnd => true
  | .wireCellBig _ _ _ => true
  | .wireCellLittle _ _ _ => true
  | .wireMaskChar0 => true
  | .wireMaskChar1 => true
  | .wireMaskNewline => true

end Sys2Proof
end

