-- ==== Sys2Proof/Decode.lean ====
section
/-! DEFINITION. Both decoders of the block (spec/30_encoding.md: "the byte stream on the wire and the
commands of its host") and, after them, the encoder. The field positions of the RGB565 cell are here too;
the codec uses the same ones. -/

namespace Sys2Proof

/-- Why an item of the inbox is no instruction. -/
inductive Reject where
  /-- The bytes are no wire token (30_encoding.md R91). -/
  | notAToken
  /-- A byte-string operand is longer than `2^32 - 1` (30_encoding.md R86). -/
  | operandTooLong
  deriving DecidableEq, Repr

/-! ## Markers and characters -/

/-- The marker as a byte string, in wire order (30_encoding.md R71, R72). -/
def markerBytes (m : Marker) : ByteString := [m.b0, m.b1, m.b2, m.b3]

/-- A marker from its 32-bit pattern, first byte on the wire most significant (30_encoding.md R71). -/
def markerOfWord (w : BitVec 32) : Marker :=
  ⟨w.extractLsb' 24 8, w.extractLsb' 16 8, w.extractLsb' 8 8, w.extractLsb' 0 8⟩

/-- The 32-bit pattern of a marker, first byte on the wire most significant (30_encoding.md R71). -/
def wordOfMarker (m : Marker) : BitVec 32 := m.b0 ++ (m.b1 ++ (m.b2 ++ m.b3))

/-- `'0'` (30_encoding.md R80; PRESUMED by the spec itself, log 14). -/
def char0 : Byte := 0x30

/-- `'1'` (30_encoding.md R80; PRESUMED by the spec itself, log 14). -/
def char1 : Byte := 0x31

/-- Newline, the line feed (30_encoding.md R80; PRESUMED by the spec itself, log 14). -/
def newline : Byte := 0x0A

/-! ## The RGB565 cell -/

/-- The 16-bit value of a cell from its first byte `p0` and second byte `p1` (30_encoding.md R76,
20_memory.md R53): `p0 * 256 + p1` or `p1 * 256 + p0`. -/
def cellValue (order : ByteOrder) (p0 p1 : Byte) : BitVec 16 :=
  match order with
  | .bigFirst => p0 ++ p1
  | .littleFirst => p1 ++ p0

/-- `r5 = v[15:11]` (30_encoding.md R75, R77). -/
def cellRed (v : BitVec 16) : BitVec 5 := v.extractLsb' 11 5

/-- `g6 = v[10:5]` (30_encoding.md R75, R77). -/
def cellGreen (v : BitVec 16) : BitVec 6 := v.extractLsb' 5 6

/-- `b5 = v[4:0]` (30_encoding.md R75, R77). -/
def cellBlue (v : BitVec 16) : BitVec 5 := v.extractLsb' 0 5

/-- The cell `rrrrrggggggbbbbb` (30_encoding.md R75). -/
def cellOfChannels (r5 : BitVec 5) (g6 : BitVec 6) (b5 : BitVec 5) : BitVec 16 := r5 ++ (g6 ++ b5)

/-- The two bytes of a cell in the order they travel (30_encoding.md R76). -/
def cellBytes (order : ByteOrder) (v : BitVec 16) : ByteString :=
  match order with
  | .bigFirst => [v.extractLsb' 8 8, v.extractLsb' 0 8]
  | .littleFirst => [v.extractLsb' 0 8, v.extractLsb' 8 8]

/-! ## Numbers of the enumerations (30_encoding.md R87) -/

def byteOrderOfBit (b : BitVec 1) : ByteOrder := if b = 0 then .bigFirst else .littleFirst

def bitOfByteOrder : ByteOrder → BitVec 1
  | .bigFirst => 0
  | .littleFirst => 1

def shortPolicyOfBit (b : BitVec 1) : ShortPolicy := if b = 0 then .reject else .pad

def bitOfShortPolicy : ShortPolicy → BitVec 1
  | .reject => 0
  | .pad => 1

def formatOfBit (b : BitVec 1) : PayloadFormat := if b = 0 then .rgb565 else .mask

def bitOfFormat : PayloadFormat → BitVec 1
  | .rgb565 => 0
  | .mask => 1

/-! ## The decoders -/

/-- The configuration that the cfg lines carry (10_state.md R27, 30_encoding.md R87). -/
def decodeCfg (c : CfgLines) : Cfg :=
  { startMarker := markerOfWord c.startMarker, endMarker := markerOfWord c.endMarker,
    width := c.width.toNat, height := c.height.toNat, bpp := c.bpp.toNat,
    byteOrder := byteOrderOfBit c.byteOrder, shortPolicy := shortPolicyOfBit c.shortPolicy,
    format := formatOfBit c.format }

/-- An instruction with a byte-string operand, refused by name when the operand is too long
(30_encoding.md R86). -/
def withByteString (bytes : ByteString) (i : Instr) : Except Reject Instr :=
  if operandFits bytes then .ok i else .error .operandTooLong

/-- The command decoder: total over the sixteen codes (30_encoding.md R85, R88). -/
def decodeCommand (c : Command) : Except Reject Instr :=
  if c.op = 0 then .ok (.reset (decodeCfg c.cfg))
  else if c.op = 1 then .ok (.feed c.byte)
  else if c.op = 2 then .ok .tryExtract
  else if c.op = 3 then withByteString c.bytes (.decodeRgb565 c.bytes c.size.toNat)
  else if c.op = 4 then withByteString c.bytes (.decodeMask c.bytes)
  else if c.op = 5 then withByteString c.bytes (.maskRow c.bytes)
  else if c.op = 6 then .ok .status
  else if c.op = 7 then .ok .reserved7
  else .ok (.reserved8to15 (c.op.extractLsb' 0 3))

/-- The cell token with the channels of the 16-bit value `v`, as the row of its byte order. -/
def cellToken (order : ByteOrder) (v : BitVec 16) : Instr :=
  match order with
  | .bigFirst => .wireCellBig (cellRed v) (cellGreen v) (cellBlue v)
  | .littleFirst => .wireCellLittle (cellRed v) (cellGreen v) (cellBlue v)

/-- The token decoder (30_encoding.md R71, R72, R75, R76, R80, R91): one byte is a mask character, two
bytes are a cell in the sender's byte order, four bytes are a reference marker. -/
def decodeToken (order : BitVec 1) (bytes : ByteString) : Except Reject Instr :=
  match bytes with
  | [c] =>
    if c = char0 then .ok .wireMaskChar0
    else if c = char1 then .ok .wireMaskChar1
    else if c = newline then .ok .wireMaskNewline
    else .error .notAToken
  | [p0, p1] => .ok (cellToken (byteOrderOfBit order) (cellValue (byteOrderOfBit order) p0 p1))
  | [_, _, _, _] =>
    if bytes = markerBytes referenceStart then .ok .wireStart
    else if bytes = markerBytes referenceEnd then .ok .wireEnd
    else .error .notAToken
  | _ => .error .notAToken

/-- A line of a script names its pseudo-operation (30_encoding.md R90). -/
def decodeScript : ScriptLine → Instr
  | .feedn chunk => .feedn chunk
  | .drain => .drain
  | .pipe => .pipe
  | .run reads => .run reads

/-- The instruction an item of the inbox stands for. -/
def decode : HostItem → Except Reject Instr
  | .command c => decodeCommand c
  | .token order bytes => decodeToken order bytes
  | .script line => .ok (decodeScript line)

/-! ## The encoder -/

/-- The cfg lines of a configuration (10_state.md R27, 30_encoding.md R87). -/
def encodeCfg (c : Cfg) : CfgLines :=
  { startMarker := wordOfMarker c.startMarker, endMarker := wordOfMarker c.endMarker,
    width := BitVec.ofNat 16 c.width, height := BitVec.ofNat 16 c.height,
    bpp := BitVec.ofNat 8 c.bpp, byteOrder := bitOfByteOrder c.byteOrder,
    shortPolicy := bitOfShortPolicy c.shortPolicy, format := bitOfFormat c.format }

/-- Cfg lines that are all 0. -/
def zeroCfgLines : CfgLines := ⟨0, 0, 0, 0, 0, 0, 0, 0⟩

/-- The command with code `op` and every operand line 0. -/
def bareCommand (op : BitVec 4) : Command :=
  { op := op, cfg := zeroCfgLines, byte := 0, size := 0, bytes := [] }

/-- The item the host hands over for an instruction (30_encoding.md R85, R90, R91); lines the operation
does not read are 0. -/
def encode : Instr → HostItem
  | .reset c => .command { bareCommand 0 with cfg := encodeCfg c }
  | .feed b => .command { bareCommand 1 with byte := b }
  | .tryExtract => .command (bareCommand 2)
  | .decodeRgb565 payload expectedSize =>
    .command { bareCommand 3 with bytes := payload, size := BitVec.ofNat 32 expectedSize }
  | .decodeMask payload => .command { bareCommand 4 with bytes := payload }
  | .maskRow line => .command { bareCommand 5 with bytes := line }
  | .status => .command (bareCommand 6)
  | .reserved7 => .command (bareCommand 7)
  | .reserved8to15 low => .command (bareCommand (1#1 ++ low))
  | .feedn chunk => .script (.feedn chunk)
  | .drain => .script .drain
  | .pipe => .script .pipe
  | .run reads => .script (.run reads)
  | .wireStart => .token 0 (markerBytes referenceStart)
  | .wireEnd => .token 0 (markerBytes referenceEnd)
  | .wireCellBig r5 g6 b5 => .token 0 (cellBytes .bigFirst (cellOfChannels r5 g6 b5))
  | .wireCellLittle r5 g6 b5 => .token 1 (cellBytes .littleFirst (cellOfChannels r5 g6 b5))
  | .wireMaskChar0 => .token 0 [char0]
  | .wireMaskChar1 => .token 0 [char1]
  | .wireMaskNewline => .token 0 [newline]

/-! ## Words of the opcode table -/

/-- The `n` bytes of a wire word, most significant byte first (30_encoding.md R91: "the first byte on the
wire is the most significant byte of `match`"). -/
def wireBytes : Nat → Nat → ByteString
  | 0, _ => []
  | n + 1, w => BitVec.ofNat 8 (w / 256 ^ n) :: wireBytes n w

/-- The item that stands for a row's word `w` of `nbits` bits (log 8): an 8-bit word that is one of the
three characters is a token, any other word of at most 8 bits is a command code with operands of zeros,
and a longer word is a token of `nbits / 8` bytes, cells high byte first. -/
def tableItem (nbits w : Nat) : HostItem :=
  if nbits ≤ 8 then
    if nbits = 8 ∧ (w = 0x30 ∨ w = 0x31 ∨ w = 0x0A) then .token 0 [BitVec.ofNat 8 w]
    else if w < 16 then .command (bareCommand (BitVec.ofNat 4 w))
    else .token 0 [BitVec.ofNat 8 w]
  else .token 0 (wireBytes (nbits / 8) w)

/-- The instruction the decoder reads from a row's word. -/
def decodeTableWord (nbits w : Nat) : Option Instr := (decode (tableItem nbits w)).toOption

end Sys2Proof
end

