-- ==== Sys2Proof/Machine/State.lean ====
section
/-! DEFINITION. The state of the block (spec/10_state.md R20), the results it returns (spec/60_exceptions.md
R180), the reasons a step stops, and the state right after reset (spec/10_state.md R36). -/

namespace Sys2Proof.Machine

/-! ## The values of state variables -/

/-- `sync`, the SynchronizerState (10_state.md R22): "No other states". -/
inductive Sync where
  | seekingStart
  | seekingEnd
  deriving DecidableEq, Repr

/-- `fault`, the sticky fault flag (10_state.md R25). -/
inductive FaultFlag where
  /-- `NONE`. -/
  | noFault
  /-- `BUF_OVERFLOW`. -/
  | bufOverflow
  deriving DecidableEq, Repr

/-! ## The values of results (10_state.md R32) -/

/-- RawFrame: payload, `length`, and the provenance `(lo, hi)` (10_state.md R32, 40_synchronizer.md R105). -/
structure RawFrame where
  payload : ByteString
  length : Nat
  lo : Nat
  hi : Nat
  deriving DecidableEq, Repr

/-- The pixel format tag of a PixelFrame (10_state.md R32). -/
inductive PixelTag where
  | rgb888
  | binaryMask
  deriving DecidableEq, Repr

/-- PixelFrame (10_state.md R32). -/
structure PixelFrame where
  width : Nat
  height : Nat
  tag : PixelTag
  pixels : ByteString
  deriving DecidableEq, Repr

/-- The status tuple (10_state.md R30, 43_system.md R161). -/
structure StatusView where
  sync : Sync
  bufLen : Nat
  base : Nat
  maskRowCount : Nat
  fault : FaultFlag
  deriving DecidableEq, Repr

/-- "value recorded in the result" of the code `OK` (60_exceptions.md R180). -/
inductive OkValue where
  /-- RESET and FEED. -/
  | nothing
  /-- TRY_EXTRACT. -/
  | rawFrame (f : RawFrame)
  /-- DECODE.RGB565. -/
  | rgbFrame (f : PixelFrame) (truncated : Bool)
  /-- DECODE.MASK. -/
  | maskFrames (fs : List PixelFrame)
  /-- MASK_ROW. -/
  | maskFrame (f : PixelFrame)
  /-- STATUS. -/
  | status (v : StatusView)
  deriving DecidableEq, Repr

/-- The result of an operation: one of the eight codes of 60_exceptions.md R180 with its value. -/
inductive Result where
  /-- `NONE`, code 0. -/
  | none
  /-- `OK`, code 1. -/
  | ok (v : OkValue)
  /-- `MALFORMED_ORDERING`, code 2. -/
  | malformedOrdering
  /-- `SIZE_MISMATCH`, code 3. -/
  | sizeMismatch (truncated : Bool)
  /-- `MALFORMED_PAYLOAD`, code 4. -/
  | malformedPayload (truncated : Bool)
  /-- `ILLEGAL_OP`, code 5. -/
  | illegalOp
  /-- `REFUSED_CFG`, code 6. -/
  | refusedCfg
  /-- `FAULT`, code 7. -/
  | fault
  deriving DecidableEq, Repr

/-- What the reference host loop does with the results it gets (43_system.md R167). -/
inductive HostEvent where
  /-- "MALFORMED_ORDERING : report". -/
  | reportMalformedOrdering
  /-- "report truncation if truncated". -/
  | reportTruncation
  /-- "SIZE_MISMATCH, MALFORMED_PAYLOAD : report; skip the frame"; `r` is the result reported. -/
  | reportRejected (r : Result)
  /-- `sink.accept(f)`. -/
  | accept (f : PixelFrame)
  /-- "FAULT : terminal; exit loop with an error". -/
  | terminalFault
  /-- `SourceClosed`: "a terminal error, ending the loop" (43_system.md R169). -/
  | terminalSourceClosed
  deriving DecidableEq, Repr

/-- What an inbox item gives back to the host (log 2). -/
inductive Reply where
  /-- The one result of an operation, or of PIPE (43_system.md R164). -/
  | single (r : Result)
  /-- The results FEEDN, DRAIN or a wire token yields, in order. -/
  | sequence (rs : List Result)
  /-- What RUN did at the host's side, in order. -/
  | loop (events : List HostEvent)
  deriving DecidableEq, Repr

/-! ## Why a step stops -/

/-- The reasons the machine stops with a fault. There are none: the spec gives every operation a result
and a next state, BUF_OVERFLOW included (60_exceptions.md R180, R186, R192; log 16). Safe. -/
inductive Fault where
  deriving DecidableEq, Repr

/-- The reasons an inbox item has no meaning. -/
inductive Refusal where
  /-- Raised by an arm of `exec` whose instruction has no meaning yet. Safe. -/
  | notModelled (mnemonic : String)
  /-- Raised by every operation but RESET and the reserved codes on a block that was never reset: "no other
  operation is defined on it" (70_reset_and_hazards.md R212, 93_implementation_defined.md I11: `refuse`;
  log 3). Safe. -/
  | neverReset
  /-- Raised by `step` on an inbox item the decoder rejects (log 8, log 17). Safe. -/
  | notAnInstruction (why : Reject)
  deriving DecidableEq, Repr

/-! ## The state -/

/-- The state. `cfg`, `buf`, `sync`, `base`, `maskRows` and `fault` are the tuple of 10_state.md R20. -/
structure State where
  /-- BUF_CAP, `none` for `inf` (00_scope.md R9): the implementation's parameter, never written (log 5). -/
  bufCap : Option Nat
  /-- Whether RESET has ever succeeded: before that "the block has no state" (70_reset_and_hazards.md
  R212; log 3). -/
  configured : Bool
  /-- `cfg` (10_state.md R27). -/
  cfg : Cfg
  /-- `buf`, oldest byte first (10_state.md R21). -/
  buf : ByteString
  /-- `sync` (10_state.md R22). -/
  sync : Sync
  /-- `base`, the stream offset of `buf[0]` (10_state.md R23). -/
  base : Nat
  /-- `mask_rows`, rows in acceptance order (10_state.md R24). -/
  maskRows : List ByteString
  /-- `fault` (10_state.md R25). -/
  fault : FaultFlag
  /-- The model's own: what the host has issued and the block has not performed, oldest first (log 1). -/
  inbox : List HostItem
  /-- The model's own: what the block has returned, oldest first; no operation reads it (log 2). -/
  replies : List Reply
  deriving DecidableEq, Repr

/-- The machine right after RESET(c) with the reference-protocol `c` (10_state.md R36, R27). The spec gives
`BYTE_ORDER` and `SHORT_POLICY` no default; DESIGN CHOICE (log 4): the values encoded 0. DESIGN CHOICE
(log 5): BUF_CAP is `inf`. -/
def State.reset : State :=
  { bufCap := none, configured := true, cfg := referenceCfg .bigFirst .reject, buf := [],
    sync := .seekingStart, base := 0, maskRows := [], fault := .noFault, inbox := [], replies := [] }

/-- The machine before its first RESET, where only `configured = false` means anything
(10_state.md R36, 70_reset_and_hazards.md R212; log 3). -/
def State.powerOn : State := { State.reset with configured := false }

end Sys2Proof.Machine
end

