-- ==== Sys2Proof/Machine/Operands.lean ====
section
/-! DEFINITION. What the operations compute from their operands and the configuration: when a configuration
is well-formed (spec/10_state.md R28), the three stages of DECODE.RGB565 (spec/41_codec_rgb565.md R121 to
R124), the lines and rows of mask text (spec/30_encoding.md R79 to R81, spec/42_codec_mask.md R140, R142).
Nothing here reads or writes `State`. -/

namespace Sys2Proof.Machine

/-! ## The configuration -/

/-- "every field holds a legal value of rule R27 and `WIDTH * HEIGHT * BPP < 2^32` and
`WIDTH * HEIGHT * 3 < 2^32`" (10_state.md R28). Markers and enumerations are legal at every value. -/
def cfgWellFormed (c : Cfg) : Bool :=
  decide (1 ≤ c.width ∧ c.width ≤ 65535) && decide (1 ≤ c.height ∧ c.height ≤ 65535) &&
  decide (1 ≤ c.bpp ∧ c.bpp ≤ 255) &&
  decide (c.width * c.height * c.bpp < sizeLimit) && decide (c.width * c.height * 3 < sizeLimit)

/-- `N = cfg.WIDTH * cfg.HEIGHT * cfg.BPP` (43_system.md R164, 30_encoding.md R73). -/
def frameBytes (c : Cfg) : Nat := c.width * c.height * c.bpp

/-! ## RGB565 -/

/-- What a stage of DECODE.RGB565 hands on: a value, or the result it raises. -/
abbrev Stage (α : Type) := Except Result α

/-- Stage 1, size reconciliation (41_codec_rgb565.md R121): the reconciled payload and `truncated`. -/
def reconcile (policy : ShortPolicy) (payload : ByteString) (expectedSize : Nat) :
    Stage (ByteString × Bool) :=
  if expectedSize < payload.length then .ok (payload.take expectedSize, true)
  else if payload.length < expectedSize then
    match policy with
    | .reject => .error (.sizeMismatch false)
    | .pad => .ok (payload ++ List.replicate (expectedSize - payload.length) 0, false)
  else .ok (payload, false)

/-- Stage 2, the structural checks on the reconciled payload, parity first (41_codec_rgb565.md R122). -/
def checkCells (c : Cfg) (p : ByteString) (truncated : Bool) : Stage Unit :=
  if p.length % 2 = 1 then .error (.malformedPayload truncated)
  else if p.length ≠ c.width * c.height * 2 then .error (.sizeMismatch truncated)
  else .ok ()

/-- `exp5(x) = (x << 3) | (x >> 2)` (41_codec_rgb565.md R124). -/
def exp5 (x : BitVec 5) : Byte := (x.setWidth 8 <<< 3) ||| (x.setWidth 8 >>> 2)

/-- `exp6(y) = (y << 2) | (y >> 4)` (41_codec_rgb565.md R124). -/
def exp6 (y : BitVec 6) : Byte := (y.setWidth 8 <<< 2) ||| (y.setWidth 8 >>> 4)

/-- The three output bytes of a cell: red, green, blue (41_codec_rgb565.md R123, 30_encoding.md R78). -/
def pixelOfCell (v : BitVec 16) : ByteString :=
  [exp5 (cellRed v), exp6 (cellGreen v), exp5 (cellBlue v)]

/-- Stage 3, pixel conversion, cell by cell in payload order (41_codec_rgb565.md R123). -/
def convertCells (order : ByteOrder) : ByteString → ByteString
  | p0 :: p1 :: rest => pixelOfCell (cellValue order p0 p1) ++ convertCells order rest
  | _ => []

/-- The result of DECODE.RGB565 in an unfaulted block: the three stages in order (41_codec_rgb565.md R120). -/
def rgb565Result (c : Cfg) (payload : ByteString) (expectedSize : Nat) : Result :=
  match reconcile c.shortPolicy payload expectedSize with
  | .error r => r
  | .ok (p, truncated) =>
    match checkCells c p truncated with
    | .error r => r
    | .ok () => .ok (.rgbFrame ⟨c.width, c.height, .rgb888, convertCells c.byteOrder p⟩ truncated)

/-! ## Mask text -/

/-- `lines(payload)`: the payload cut at every newline, `k` newlines giving `k + 1` lines
(42_codec_mask.md R142). -/
def splitLines : ByteString → List ByteString
  | [] => [[]]
  | b :: rest =>
    if b = newline then [] :: splitLines rest
    else
      match splitLines rest with
      | line :: more => (b :: line) :: more
      | [] => [[b]]

/-- A line is valid: length exactly WIDTH, every byte `'0'` or `'1'` (42_codec_mask.md R140). -/
def lineValid (c : Cfg) (line : ByteString) : Bool :=
  decide (line.length = c.width) && line.all (fun b => b == char0 || b == char1)

/-- The cells of a valid line: the character code minus `0x30` (42_codec_mask.md R140, 30_encoding.md R81). -/
def rowOfLine (line : ByteString) : ByteString := line.map (· - char0)

/-- The PixelFrame of `HEIGHT` accepted rows, one row after another (42_codec_mask.md R140, 30_encoding.md
R81). -/
def maskPixelFrame (c : Cfg) (rows : List ByteString) : PixelFrame :=
  ⟨c.width, c.height, .binaryMask, rows.flatten⟩

end Sys2Proof.Machine
end

