-- ==== Sys2Proof/Machine/Ops.lean ====
section
/-! DEFINITION. The named operations over the ByteBuffer and the state variables (spec/00_scope.md R15), the
fault gate (spec/40_synchronizer.md R100), and how an operation's result reaches the host
(spec/60_exceptions.md R192, R193). -/

namespace Sys2Proof.Machine

/-- What an operation does to the state and the result it returns (60_exceptions.md R180). -/
abbrev Effect := State × Result

/-! ## Reading the ByteBuffer -/

/-- `find(s, m)`, marker first: the least index at which `m` occurs in `s` (00_scope.md R15). -/
def find (m : ByteString) : ByteString → Option Nat
  | [] => if m.isPrefixOf [] then some 0 else none
  | b :: rest => if m.isPrefixOf (b :: rest) then some 0 else (find m rest).map (· + 1)

/-- The byte with stream offset `n`, where it is retained (20_memory.md R51): the model's read of one byte
of memory. -/
def State.byteAt (s : State) (n : Nat) : Option Byte :=
  if n < s.base then none else s.buf[n - s.base]?

/-- The stream offset of the next byte to be fed: `base + len(buf)` (10_state.md R23). -/
def State.streamEnd (s : State) : Nat := s.base + s.buf.length

/-- `find(buf, cfg.START)`. -/
def State.findStart (s : State) : Option Nat := find (markerBytes s.cfg.startMarker) s.buf

/-- `find(buf, cfg.END)`. -/
def State.findEnd (s : State) : Option Nat := find (markerBytes s.cfg.endMarker) s.buf

/-- `len(buf) = BUF_CAP`, never so when BUF_CAP is `inf` (40_synchronizer.md R101). -/
def State.bufFull (s : State) : Bool := decide (s.bufCap = some s.buf.length)

/-! ## Writing the state -/

/-- `buf <- buf ++ [b]` (00_scope.md R15 `MemWrite`). -/
def State.appendByte (s : State) (b : Byte) : State := { s with buf := s.buf ++ [b] }

/-- `drop(n)` (00_scope.md R15). -/
def State.dropFront (s : State) (n : Nat) : State := { s with buf := s.buf.drop n, base := s.base + n }

/-- `sync <- v`. -/
def State.setSync (s : State) (v : Sync) : State := { s with sync := v }

/-- `fault <- v`. -/
def State.setFault (s : State) (v : FaultFlag) : State := { s with fault := v }

/-- `mask_rows <- rows`. -/
def State.setMaskRows (s : State) (rows : List ByteString) : State := { s with maskRows := rows }

/-- The writes of RESET(c) (43_system.md R160, 10_state.md R36). -/
def State.load (s : State) (c : Cfg) : State :=
  { s with configured := true, cfg := c, buf := [], sync := .seekingStart, base := 0, maskRows := [],
           fault := .noFault }

/-- Hands a reply to the host (log 2). -/
def State.post (s : State) (r : Reply) : State := { s with replies := s.replies ++ [r] }

/-- Takes the oldest item off the inbox, leaving `rest` (log 1). -/
def State.withInbox (s : State) (rest : List HostItem) : State := { s with inbox := rest }

/-! ## The fault gate and `raise` -/

/-- "if fault != NONE then raise FAULT" (40_synchronizer.md R100): in a faulted state nothing changes and
the result is `FAULT` (60_exceptions.md R187). -/
def gate (s : State) (body : Effect) : Effect :=
  match s.fault with
  | .noFault => body
  | .bufOverflow => (s, .fault)

/-! ## Returning to the host -/

/-- An operation that any block performs, reset or not (43_system.md R160, R162). -/
def answerAlways (e : Effect) : Host.Outcome State Fault Refusal := .next (e.1.post (.single e.2))

/-- An operation that is defined only after the first RESET (70_reset_and_hazards.md R212, I11). -/
def answer (s : State) (e : Effect) : Host.Outcome State Fault Refusal :=
  if s.configured then answerAlways e else .refused .neverReset

/-- As `answer`, for a sequence of operations that yields the list of their results. -/
def answerSequence (s : State) (e : State × List Result) : Host.Outcome State Fault Refusal :=
  if s.configured then .next (e.1.post (.sequence e.2)) else .refused .neverReset

end Sys2Proof.Machine
end

