-- ==== Sys2Proof/Machine/System.lean ====
section
/-! DEFINITION. The system operations: RESET, STATUS and the reserved codes (spec/43_system.md R160 to
R162). None of them is subject to the fault gate. -/

namespace Sys2Proof.Machine

/-- RESET `c` (43_system.md R160): an ill-formed configuration is refused and changes nothing. -/
def resetOp (c : Cfg) (s : State) : Effect :=
  if cfgWellFormed c then (s.load c, .ok .nothing) else (s, .refusedCfg)

/-- The status tuple (10_state.md R30). -/
def State.statusView (s : State) : StatusView :=
  ⟨s.sync, s.buf.length, s.base, s.maskRows.length, s.fault⟩

/-- STATUS "writes nothing" (43_system.md R161). -/
def statusOp (s : State) : Effect := (s, .ok (.status s.statusView))

/-- A reserved command code (43_system.md R162, 30_encoding.md R88). -/
def reservedOp (s : State) : Effect := (s, .illegalOp)

/-- The meaning of RESET: defined on every block, reset before or not. -/
def execReset (c : Cfg) (s : State) : Host.Outcome State Fault Refusal := answerAlways (resetOp c s)

/-- The meaning of STATUS. -/
def execStatus (s : State) : Host.Outcome State Fault Refusal := answer s (statusOp s)

/-- The meaning of the reserved code 7. -/
def execReserved7 (s : State) : Host.Outcome State Fault Refusal := answerAlways (reservedOp s)

/-- The meaning of the reserved codes 8 to 15; the low bits are not read. -/
def execReserved8to15 (_low : BitVec 3) (s : State) : Host.Outcome State Fault Refusal :=
  answerAlways (reservedOp s)

end Sys2Proof.Machine
end

