-- ==== Sys2Proof/Machine/Codec.lean ====
section
/-! DEFINITION. The Pixel Codec: DECODE.RGB565 (spec/41_codec_rgb565.md R120), MASK_ROW and DECODE.MASK
(spec/42_codec_mask.md R140, R141). -/

namespace Sys2Proof.Machine

/-- DECODE.RGB565 writes no state (41_codec_rgb565.md R120, R129). -/
def decodeRgb565Op (payload : ByteString) (expectedSize : Nat) (s : State) : Effect :=
  gate s (s, rgb565Result s.cfg payload expectedSize)

/-- One step of the mask accumulation: the new state, and the frame when this line completed one
(42_codec_mask.md R140). -/
def acceptLine (s : State) (line : ByteString) : State × Option PixelFrame :=
  if lineValid s.cfg line then
    if (s.maskRows ++ [rowOfLine line]).length = s.cfg.height then
      (s.setMaskRows [], some (maskPixelFrame s.cfg (s.maskRows ++ [rowOfLine line])))
    else (s.setMaskRows (s.maskRows ++ [rowOfLine line]), none)
  else (s, none)

/-- Every line in order, collecting the completed frames (42_codec_mask.md R141). -/
def acceptLines : State → List ByteString → State × List PixelFrame
  | s, [] => (s, [])
  | s, line :: rest =>
    let here := acceptLine s line
    let later := acceptLines here.1 rest
    (later.1, here.2.toList ++ later.2)

/-- The result of MASK_ROW: `OK` with the frame, or `NONE` (42_codec_mask.md R140). -/
def maskRowResult : Option PixelFrame → Result
  | none => .none
  | some f => .ok (.maskFrame f)

/-- The result of DECODE.MASK: `OK` with a non-empty list of frames, or `NONE` (42_codec_mask.md R141). -/
def decodeMaskResult : List PixelFrame → Result
  | [] => .none
  | f :: fs => .ok (.maskFrames (f :: fs))

/-- MASK_ROW (42_codec_mask.md R140, after the gate of 40_synchronizer.md R100). -/
def maskRowOp (line : ByteString) (s : State) : Effect :=
  gate s ((acceptLine s line).1, maskRowResult (acceptLine s line).2)

/-- DECODE.MASK (42_codec_mask.md R141, after the gate of 40_synchronizer.md R100). -/
def decodeMaskOp (payload : ByteString) (s : State) : Effect :=
  gate s ((acceptLines s (splitLines payload)).1,
          decodeMaskResult (acceptLines s (splitLines payload)).2)

/-- The meaning of DECODE.RGB565. -/
def execDecodeRgb565 (payload : ByteString) (expectedSize : Nat) (s : State) :
    Host.Outcome State Fault Refusal :=
  answer s (decodeRgb565Op payload expectedSize s)

/-- The meaning of DECODE.MASK. -/
def execDecodeMask (payload : ByteString) (s : State) : Host.Outcome State Fault Refusal :=
  answer s (decodeMaskOp payload s)

/-- The meaning of MASK_ROW. -/
def execMaskRow (line : ByteString) (s : State) : Host.Outcome State Fault Refusal :=
  answer s (maskRowOp line s)

end Sys2Proof.Machine
end

