-- ==== Sys2Proof/Machine/Flags.lean ====
section
/-! DEFINITION. The numbers of the result codes, of the flag and of the enumerations that only results show
(spec/60_exceptions.md R180, spec/30_encoding.md R87), and the truncation warning (spec/60_exceptions.md
R185). The block has no condition codes (spec/10_state.md R31). -/

namespace Sys2Proof.Machine

/-- The 3-bit result code (60_exceptions.md R180). -/
def resultCode : Result → BitVec 3
  | .none => 0
  | .ok _ => 1
  | .malformedOrdering => 2
  | .sizeMismatch _ => 3
  | .malformedPayload _ => 4
  | .illegalOp => 5
  | .refusedCfg => 6
  | .fault => 7

/-- `sync` as a number (30_encoding.md R87). -/
def syncNumber : Sync → BitVec 1
  | .seekingStart => 0
  | .seekingEnd => 1

/-- `fault` as a number (30_encoding.md R87). -/
def faultNumber : FaultFlag → BitVec 1
  | .noFault => 0
  | .bufOverflow => 1

/-- A PixelFrame's `tag` as a number (30_encoding.md R87). -/
def tagNumber : PixelTag → BitVec 1
  | .rgb888 => 0
  | .binaryMask => 1

/-- The truncation warning that a result of DECODE.RGB565 carries; no other result carries one
(60_exceptions.md R185). -/
def truncatedOf : Result → Option Bool
  | .none => none
  | .ok (.rgbFrame _ truncated) => some truncated
  | .ok .nothing => none
  | .ok (.rawFrame _) => none
  | .ok (.maskFrames _) => none
  | .ok (.maskFrame _) => none
  | .ok (.status _) => none
  | .malformedOrdering => none
  | .sizeMismatch truncated => some truncated
  | .malformedPayload truncated => some truncated
  | .illegalOp => none
  | .refusedCfg => none
  | .fault => none

/-- `NONE` and `FAULT` end a DRAIN (40_synchronizer.md R108). -/
def endsDrain : Result → Bool
  | .none => true
  | .fault => true
  | .ok _ => false
  | .malformedOrdering => false
  | .sizeMismatch _ => false
  | .malformedPayload _ => false
  | .illegalOp => false
  | .refusedCfg => false

end Sys2Proof.Machine
end

