-- ==== Sys2Proof/Machine/Synchronizer.lean ====
section
/-! DEFINITION. The Frame Synchronizer: FEED and TRY_EXTRACT (spec/40_synchronizer.md R101, R103). -/

namespace Sys2Proof.Machine

/-- FEED `b` (40_synchronizer.md R101, after the gate of R100). -/
def feedOp (b : Byte) (s : State) : Effect :=
  gate s (if s.bufFull then (s.setFault .bufOverflow, .fault) else (s.appendByte b, .ok .nothing))

/-- Steps 2 and 3 of TRY_EXTRACT, with `buf[0]` the first byte after the START marker
(40_synchronizer.md R103). -/
def closeFrame (s : State) : Effect :=
  match s.findEnd with
  | none => (s, .none)
  | some e =>
    ((s.dropFront (e + markerLength)).setSync .seekingStart,
     .ok (.rawFrame ⟨s.buf.take e, e, s.base, s.base + e⟩))

/-- The index of the earliest END marker where it begins before index `i`, the ordering test of
40_synchronizer.md R103 and R106. -/
def State.strayEnd (s : State) (i : Nat) : Option Nat :=
  match s.findEnd with
  | none => none
  | some e => if e < i then some e else none

/-- The START marker at index `i` opens a frame: "drop garbage and the START marker"
(40_synchronizer.md R103). -/
def State.openFrame (s : State) (i : Nat) : State :=
  (s.dropFront (i + markerLength)).setSync .seekingEnd

/-- The pseudocode of TRY_EXTRACT (40_synchronizer.md R103). -/
def extract (s : State) : Effect :=
  match s.sync with
  | .seekingStart =>
    match s.findStart with
    | none => (s, .none)
    | some i =>
      match s.strayEnd i with
      | some e => (s.dropFront (e + markerLength), .malformedOrdering)
      | none => closeFrame (s.openFrame i)
  | .seekingEnd => closeFrame s

/-- TRY_EXTRACT (40_synchronizer.md R103, after the gate of R100). -/
def tryExtractOp (s : State) : Effect := gate s (extract s)

/-- The meaning of FEED. -/
def execFeed (b : Byte) (s : State) : Host.Outcome State Fault Refusal := answer s (feedOp b s)

/-- The meaning of TRY_EXTRACT. -/
def execTryExtract (s : State) : Host.Outcome State Fault Refusal := answer s (tryExtractOp s)

end Sys2Proof.Machine
end

