-- ==== Sys2Proof/Machine/Pipeline.lean ====
section
/-! DEFINITION. The pseudo-operations FEEDN, DRAIN, PIPE and RUN (spec/30_encoding.md R90,
spec/40_synchronizer.md R102, R108, spec/43_system.md R164, R167): sequences of the operations, and nothing
else (spec/43_system.md R170). -/

namespace Sys2Proof.Machine

/-! ## FEEDN and DRAIN -/

/-- `FEED b0; FEED b1; ...`, stopping at the first `FAULT`, with the results in order
(40_synchronizer.md R102). -/
def feednOp : ByteString → State → State × List Result
  | [], s => (s, [])
  | b :: rest, s =>
    let here := feedOp b s
    if here.2 = .fault then (here.1, [.fault])
    else
      let later := feednOp rest here.1
      (later.1, here.2 :: later.2)

/-- TRY_EXTRACT until one returns `NONE` or `FAULT`, at most `fuel` times: the results before that one
(40_synchronizer.md R108). -/
def drainLoop : Nat → State → State × List Result
  | 0, s => (s, [])
  | fuel + 1, s =>
    let here := tryExtractOp s
    if endsDrain here.2 then (here.1, [])
    else
      let later := drainLoop fuel here.1
      (later.1, here.2 :: later.2)

/-- More attempts than any DRAIN makes: each that goes on drops at least `MLEN` bytes (40_synchronizer.md
R108). -/
def State.drainFuel (s : State) : Nat := s.buf.length + 1

/-- DRAIN (40_synchronizer.md R108). -/
def drainOp (s : State) : State × List Result := drainLoop s.drainFuel s

/-! ## PIPE -/

/-- The decode operation that `cfg.FORMAT` selects (43_system.md R164). -/
def decodeFrameOp (payload : ByteString) (s : State) : Effect :=
  match s.cfg.format with
  | .rgb565 => decodeRgb565Op payload (frameBytes s.cfg) s
  | .mask => decodeMaskOp payload s

/-- The RawFrame that a result carries. -/
def frameOf : Result → Option RawFrame
  | .ok (.rawFrame f) => some f
  | _ => none

/-- PIPE (43_system.md R164). -/
def pipeOp (s : State) : Effect :=
  let here := tryExtractOp s
  match frameOf here.2 with
  | some f => decodeFrameOp f.payload here.1
  | none => here

/-! ## RUN -/

/-- What the loop does with the result of a decode, "case d of" (43_system.md R167). -/
def deliver : Result → List HostEvent
  | .ok (.rgbFrame f truncated) => (if truncated then [.reportTruncation] else []) ++ [.accept f]
  | .ok (.maskFrames fs) => fs.map .accept
  | .sizeMismatch truncated => [.reportRejected (.sizeMismatch truncated)]
  | .malformedPayload truncated => [.reportRejected (.malformedPayload truncated)]
  | _ => []

/-- What one turn of the loop's `repeat` leaves: the state, the host's events, and whether the `repeat`
goes on, is left, or ends the loop with an error. -/
inductive Turn where
  | again
  | left
  | failed
  deriving DecidableEq, Repr

/-- One turn of the `repeat` (43_system.md R167, "case r of"). -/
def runTurn (s : State) : State × List HostEvent × Turn :=
  let here := tryExtractOp s
  match here.2 with
  | .none => (here.1, [], .left)
  | .fault => (here.1, [.terminalFault], .failed)
  | .malformedOrdering => (here.1, [.reportMalformedOrdering], .again)
  | .ok (.rawFrame f) =>
    let d := decodeFrameOp f.payload here.1
    (d.1, deliver d.2, .again)
  | _ => (here.1, [], .left)

/-- The `repeat` of RUN, at most `fuel` turns: the state, the events, and whether the loop failed
(43_system.md R167). -/
def runRepeat : Nat → State → State × List HostEvent × Bool
  | 0, s => (s, [], false)
  | fuel + 1, s =>
    let here := runTurn s
    match here.2.2 with
    | .left => (here.1, here.2.1, false)
    | .failed => (here.1, here.2.1, true)
    | .again =>
      let later := runRepeat fuel here.1
      (later.1, here.2.1 ++ later.2.1, later.2.2)

/-- RUN over the reads of the byte source; when they are used up the stop signal is seen
(43_system.md R167 to R169, log 10). -/
def runOp : List SourceRead → State → State × List HostEvent
  | [], s => (s, [])
  | .closed :: _, s => (s, [.terminalSourceClosed])
  | .chunk bytes :: rest, s =>
    let fed := (feednOp bytes s).1
    let here := runRepeat fed.drainFuel fed
    if here.2.2 then (here.1, here.2.1)
    else
      let later := runOp rest here.1
      (later.1, here.2.1 ++ later.2)

/-- The loop issues an operation to the block: it does unless it stops or its source closes before the
first chunk. -/
def runTouchesBlock : List SourceRead → Bool
  | .chunk _ :: _ => true
  | .closed :: _ => false
  | [] => false

/-! ## Meanings -/

/-- The meaning of FEEDN: of no bytes it issues nothing, and is so defined on every block
(40_synchronizer.md R102, log 11). -/
def execFeedn (chunk : ByteString) (s : State) : Host.Outcome State Fault Refusal :=
  if chunk = [] then .next (s.post (.sequence [])) else answerSequence s (feednOp chunk s)

/-- The meaning of DRAIN. -/
def execDrain (s : State) : Host.Outcome State Fault Refusal := answerSequence s (drainOp s)

/-- The meaning of PIPE. -/
def execPipe (s : State) : Host.Outcome State Fault Refusal := answer s (pipeOp s)

/-- The meaning of RUN: while it issues nothing to the block it is defined on every block (log 11). -/
def execRun (reads : List SourceRead) (s : State) : Host.Outcome State Fault Refusal :=
  if s.configured || !runTouchesBlock reads then
    .next ((runOp reads s).1.post (.loop (runOp reads s).2))
  else .refused .neverReset

end Sys2Proof.Machine
end

