-- ==== Sys2Proof/Machine/Wire.lean ====
section
/-! DEFINITION. The wire tokens (spec/30_encoding.md R71, R72, R75, R76, R80): the byte source delivers the
token, that is, its bytes are fed in wire order (spec/20_memory.md R52, log 7). Recognising a token is part
of TRY_EXTRACT, DECODE.RGB565 and DECODE.MASK. -/

namespace Sys2Proof.Machine

/-- The bytes of a token arrive: FEED of each in wire order (40_synchronizer.md R102). -/
def deliverToken (bytes : ByteString) (s : State) : Host.Outcome State Fault Refusal :=
  answerSequence s (feednOp bytes s)

/-- The meaning of the START token (30_encoding.md R71). -/
def execWireStart (s : State) : Host.Outcome State Fault Refusal :=
  deliverToken (markerBytes referenceStart) s

/-- The meaning of the END token (30_encoding.md R72). -/
def execWireEnd (s : State) : Host.Outcome State Fault Refusal :=
  deliverToken (markerBytes referenceEnd) s

/-- The meaning of a cell sent high byte first (30_encoding.md R75, R76). -/
def execWireCellBig (r5 : BitVec 5) (g6 : BitVec 6) (b5 : BitVec 5) (s : State) :
    Host.Outcome State Fault Refusal :=
  deliverToken (cellBytes .bigFirst (cellOfChannels r5 g6 b5)) s

/-- The meaning of a cell sent low byte first (30_encoding.md R75, R76). -/
def execWireCellLittle (r5 : BitVec 5) (g6 : BitVec 6) (b5 : BitVec 5) (s : State) :
    Host.Outcome State Fault Refusal :=
  deliverToken (cellBytes .littleFirst (cellOfChannels r5 g6 b5)) s

/-- The meaning of the character `'0'` (30_encoding.md R80). -/
def execWireMaskChar0 (s : State) : Host.Outcome State Fault Refusal := deliverToken [char0] s

/-- The meaning of the character `'1'` (30_encoding.md R80). -/
def execWireMaskChar1 (s : State) : Host.Outcome State Fault Refusal := deliverToken [char1] s

/-- The meaning of the newline (30_encoding.md R80). -/
def execWireMaskNewline (s : State) : Host.Outcome State Fault Refusal := deliverToken [newline] s

end Sys2Proof.Machine
end

