-- ==== Sys2Proof/Machine/Dispatch.lean ====
section
/-! DEFINITION. The meaning of each instruction, one arm per constructor. -/

namespace Sys2Proof.Machine

def exec (i : Instr) (s : State) : Host.Outcome State Fault Refusal :=
  match i with
  | .reset c => Sys2Proof.Machine.execReset c s
  | .feed b => Sys2Proof.Machine.execFeed b s
  | .tryExtract => Sys2Proof.Machine.execTryExtract s
  | .decodeRgb565 payload expectedSize => Sys2Proof.Machine.execDecodeRgb565 payload expectedSize s
  | .decodeMask payload => Sys2Proof.Machine.execDecodeMask payload s
  | .maskRow line => Sys2Proof.Machine.execMaskRow line s
  | .status => Sys2Proof.Machine.execStatus s
  | .reserved7 => Sys2Proof.Machine.execReserved7 s
  | .reserved8to15 low => Sys2Proof.Machine.execReserved8to15 low s
  | .feedn chunk => Sys2Proof.Machine.execFeedn chunk s
  | .drain => Sys2Proof.Machine.execDrain s
  | .pipe => Sys2Proof.Machine.execPipe s
  | .run reads => Sys2Proof.Machine.execRun reads s
  | .wireStart => Sys2Proof.Machine.execWireStart s
  | .wireEnd => Sys2Proof.Machine.execWireEnd s
  | .wireCellBig r5 g6 b5 => Sys2Proof.Machine.execWireCellBig r5 g6 b5 s
  | .wireCellLittle r5 g6 b5 => Sys2Proof.Machine.execWireCellLittle r5 g6 b5 s
  | .wireMaskChar0 => Sys2Proof.Machine.execWireMaskChar0 s
  | .wireMaskChar1 => Sys2Proof.Machine.execWireMaskChar1 s
  | .wireMaskNewline => Sys2Proof.Machine.execWireMaskNewline s

end Sys2Proof.Machine
end

