-- ==== Sys2Proof/Machine/Step.lean ====
section
/-! DEFINITION. One step: the block performs the oldest operation the host has issued
(spec/20_memory.md R58, R63; spec/00_scope.md R12). -/

namespace Sys2Proof.Machine

/-- One step takes the oldest item off the inbox and performs it. With nothing issued nothing happens:
"Waiting for input is the host not issuing operations" (60_exceptions.md R201; log 1). -/
def step (s : State) : Host.Outcome State Fault Refusal :=
  match s.inbox with
  | [] => .next s
  | item :: rest =>
    match decode item with
    | .ok i => exec i (s.withInbox rest)
    | .error why => .refused (.notAnInstruction why)

/-- `s` with the opcode table's word `w` as the item that `step` takes next (log 8). -/
def State.withFetchWord (s : State) (nbits w : Nat) : State :=
  s.withInbox (tableItem nbits w :: s.inbox)

end Sys2Proof.Machine
end

