-- ==== Sys2Proof/Safety.lean ====
section
/-! DEFINITION. What a well-formed state and a safe run are: the invariants of spec/10_state.md R35 (a) to
(c), the frame invariant of spec/10_state.md R33, and the failed run of spec/60_exceptions.md R187. Then the terms that claims use:
occurrences of a marker, which instruction may write what, and a sequence of issued instructions. -/

namespace Sys2Proof.Machine

/-- A row of `mask_rows`: exactly WIDTH cells, each 0 or 1 (10_state.md R35 (c)). -/
def rowWf (c : Cfg) (row : ByteString) : Bool :=
  decide (row.length = c.width) && row.all (fun b => b == 0 || b == 1)

/-- `len(buf) <= BUF_CAP` (10_state.md R35 (b), 20_memory.md R62): the form that every operation on the
block's only memory keeps. A list has one form for each byte string, so equal memories are equal data. -/
def Memory.wf (s : State) : Bool :=
  match s.bufCap with
  | none => true
  | some cap => decide (s.buf.length ≤ cap)

/-- `len(mask_rows) < cfg.HEIGHT` and every row is well-formed (10_state.md R35 (c)). -/
def maskWf (s : State) : Bool :=
  decide (s.maskRows.length < s.cfg.height) && s.maskRows.all (rowWf s.cfg)

/-- The invariants (a), (b) and (c) of 10_state.md R35, of a block that was reset; a block that never was
has no state for them to speak of. -/
def State.Inv (s : State) : Prop :=
  s.configured = true → cfgWellFormed s.cfg = true ∧ Memory.wf s = true ∧ maskWf s = true

/-- The PixelFrame invariant (10_state.md R33). -/
def pixelFrameWf (f : PixelFrame) : Prop :=
  (f.tag = .rgb888 → f.pixels.length = f.width * f.height * 3) ∧
  (f.tag = .binaryMask →
    f.pixels.length = f.width * f.height ∧ ∀ b ∈ f.pixels, b = 0 ∨ b = 1)

/-- The PixelFrames a result carries. -/
def framesOf : Result → List PixelFrame
  | .ok (.rgbFrame f _) => [f]
  | .ok (.maskFrames fs) => fs
  | .ok (.maskFrame f) => [f]
  | _ => []

/-- The PixelFrames an event of the host loop carries. -/
def framesOfEvent : HostEvent → List PixelFrame
  | .accept f => [f]
  | _ => []

/-- The PixelFrames a reply carries. -/
def framesOfReply : Reply → List PixelFrame
  | .single r => framesOf r
  | .sequence rs => rs.flatMap framesOf
  | .loop events => events.flatMap framesOfEvent

/-- A reply in which `FAULT` was returned: "A run in which FAULT was returned is a failed run"
(60_exceptions.md R187). -/
def Reply.failed : Reply → Bool
  | .single r => decide (r = .fault)
  | .sequence rs => decide (Result.fault ∈ rs)
  | .loop events => decide (HostEvent.terminalFault ∈ events)

/-- A run is safe so far: no reply was a failure (60_exceptions.md R187). -/
def State.safe (s : State) : Bool := s.replies.all (fun r => !r.failed)

/-! ## Terms of the claims -/

/-- `m` occurs in `s` at index `i`: "`i + len(m) <= len(s)` and `s[i..i+len(m)) = m`" (00_scope.md R15). -/
abbrev OccursAt (m s : ByteString) (i : Nat) : Prop :=
  i + m.length ≤ s.length ∧ (s.drop i).take m.length = m

/-- `i` is "the least index" at which `m` occurs in `s` (00_scope.md R15). -/
abbrev EarliestAt (m s : ByteString) (i : Nat) : Prop := OccursAt m s i ∧ ∀ j < i, ¬ OccursAt m s j

/-- `m` occurs nowhere in `s`. -/
abbrev Absent (m s : ByteString) : Prop := ∀ j ≤ s.length, ¬ OccursAt m s j

/-- The block was reset and is not faulted: the fault gate is open (40_synchronizer.md R100). -/
abbrev State.Ready (s : State) : Prop := s.configured = true ∧ s.fault = .noFault

/-- The START marker's bytes. -/
abbrev State.startBytes (s : State) : ByteString := markerBytes s.cfg.startMarker

/-- The END marker's bytes. -/
abbrev State.endBytes (s : State) : ByteString := markerBytes s.cfg.endMarker

/-- The state but for what has been returned to the host. -/
def State.withoutReplies (s : State) : State := { s with replies := [] }

/-- The host issues instructions one after another; `none` when one does not answer a next state. -/
def issue : List Instr → State → Option State
  | [], s => some s
  | i :: rest, s =>
    match exec i s with
    | .next t => issue rest t
    | .fault _ => none
    | .refused _ => none

/-- The results of operations that a reply holds. -/
def resultsOf : Reply → List Result
  | .single r => [r]
  | .sequence rs => rs
  | .loop _ => []

/-- A result of TRY_EXTRACT other than `NONE` and `FAULT`: a RawFrame or MALFORMED_ORDERING. -/
def isExtraction : Result → Bool
  | .ok (.rawFrame _) => true
  | .malformedOrdering => true
  | _ => false

/-- The RawFrames and MALFORMED_ORDERING results of some replies, in order. -/
def extractions (rs : List Reply) : List Result := (rs.flatMap resultsOf).filter isExtraction

/-- RESET. -/
def isReset : Instr → Bool
  | .reset _ => true
  | .feed _ | .tryExtract | .decodeRgb565 _ _ | .decodeMask _ | .maskRow _ | .status | .reserved7
  | .reserved8to15 _ | .feedn _ | .drain | .pipe | .run _ | .wireStart | .wireEnd | .wireCellBig _ _ _
  | .wireCellLittle _ _ _ | .wireMaskChar0 | .wireMaskChar1 | .wireMaskNewline => false

/-- The instruction issues FEED, so it may append bytes or overflow the buffer. -/
def mayFeed : Instr → Bool
  | .feed _ | .feedn _ | .run _ | .wireStart | .wireEnd | .wireCellBig _ _ _ | .wireCellLittle _ _ _
  | .wireMaskChar0 | .wireMaskChar1 | .wireMaskNewline => true
  | .reset _ | .tryExtract | .decodeRgb565 _ _ | .decodeMask _ | .maskRow _ | .status | .reserved7
  | .reserved8to15 _ | .drain | .pipe => false

/-- The instruction issues TRY_EXTRACT, so it may drop bytes and write `sync`. -/
def mayExtract : Instr → Bool
  | .tryExtract | .drain | .pipe | .run _ => true
  | .reset _ | .feed _ | .decodeRgb565 _ _ | .decodeMask _ | .maskRow _ | .status | .reserved7
  | .reserved8to15 _ | .feedn _ | .wireStart | .wireEnd | .wireCellBig _ _ _ | .wireCellLittle _ _ _
  | .wireMaskChar0 | .wireMaskChar1 | .wireMaskNewline => false

/-- The instruction issues MASK_ROW or DECODE.MASK, so it may write `mask_rows` (10_state.md R24). -/
def mayAccumulate : Instr → Bool
  | .decodeMask _ | .maskRow _ | .pipe | .run _ => true
  | .reset _ | .feed _ | .tryExtract | .decodeRgb565 _ _ | .status | .reserved7 | .reserved8to15 _
  | .feedn _ | .drain | .wireStart | .wireEnd | .wireCellBig _ _ _ | .wireCellLittle _ _ _
  | .wireMaskChar0 | .wireMaskChar1 | .wireMaskNewline => false

/-- The result codes that the column "returned by" of 60_exceptions.md R180 gives each operation; PIPE
returns those of TRY_EXTRACT and of the two decodes (43_system.md R164). The other instructions return a
list, and no code of their own. -/
def codesOf : Instr → List (BitVec 3)
  | .reset _ => [1, 6]
  | .feed _ => [1, 7]
  | .tryExtract => [0, 1, 2, 7]
  | .decodeRgb565 _ _ => [1, 3, 4, 7]
  | .decodeMask _ => [0, 1, 7]
  | .maskRow _ => [0, 1, 7]
  | .status => [1]
  | .reserved7 => [5]
  | .reserved8to15 _ => [5]
  | .pipe => [0, 1, 2, 3, 4, 7]
  | .feedn _ | .drain | .run _ | .wireStart | .wireEnd | .wireCellBig _ _ _ | .wireCellLittle _ _ _
  | .wireMaskChar0 | .wireMaskChar1 | .wireMaskNewline => []

/-- The value of a cell as a number (20_memory.md R53). -/
def cellNumber (order : ByteOrder) (p0 p1 : Byte) : Nat :=
  match order with
  | .bigFirst => p0.toNat * 256 + p1.toNat
  | .littleFirst => p1.toNat * 256 + p0.toNat

end Sys2Proof.Machine
end

