-- ==== Sys2Proof/Certificates/Slice0/Obligations.lean ====
section
/-! DEFINITION. The statements for the provers, each a `def Obligations.<Name> : Prop`; OBLIGATIONS.json lists
them with the rules of spec/ they formalise. Rules that the spec itself marks as derived, and conventions of the
model (log <n>), are stated with basis 'derived'. -/

open Sys2Proof Sys2Proof.Machine

/-! ## Encoding -/

/-- Every instruction whose operands the encoding can carry is decoded from its own encoding, every operand
at every value. The transport of the operands and the WIRE and PSEUDO forms are the model's (log 6, log 7,
log 9). -/
def Obligations.DecodingAnEncodedInstructionGivesItBack : Prop :=
  ∀ i : Instr, i.wellFormed = true → decode (encode i) = .ok i

/-- The decoders answer only instructions that the encoding can carry (log 6, log 17). -/
def Obligations.DecodedInstructionsAreWellFormed : Prop :=
  ∀ (item : HostItem) (i : Instr), decode item = .ok i → i.wellFormed = true

/-- The command decoder is total over the sixteen codes, and each code names the operation of the table in
30_encoding.md R85: 0 RESET to 6 STATUS, 7 and 8 to 15 reserved. The too-long operand is log 17. -/
def Obligations.EveryCommandCodeNamesItsOperation : Prop :=
  ∀ c : Command, c.bytes.length < 4294967296 →
    ∃ i, decode (.command c) = .ok i ∧
      (c.op = 0 → i = .reset (decodeCfg c.cfg)) ∧
      (c.op = 1 → i = .feed c.byte) ∧
      (c.op = 2 → i = .tryExtract) ∧
      (c.op = 3 → i = .decodeRgb565 c.bytes c.size.toNat) ∧
      (c.op = 4 → i = .decodeMask c.bytes) ∧
      (c.op = 5 → i = .maskRow c.bytes) ∧
      (c.op = 6 → i = .status) ∧
      (c.op = 7 → i = .reserved7) ∧
      (8 ≤ c.op.toNat → ∃ low : BitVec 3, i = .reserved8to15 low ∧ low.toNat = c.op.toNat - 8)

/-- Twelve words of the opcode table decode to their rows: six command codes, both markers, one cell, three
mask characters (a sanity statement; the reading of an 8-bit and of a 16-bit word is log 8). -/
def Obligations.TableWordsDecodeToTheirRows : Prop :=
  decodeTableWord 8 0x1 = some (.feed 0) ∧ decodeTableWord 8 0x2 = some .tryExtract ∧
  decodeTableWord 8 0x3 = some (.decodeRgb565 [] 0) ∧ decodeTableWord 8 0x6 = some .status ∧
  decodeTableWord 8 0x7 = some .reserved7 ∧ decodeTableWord 8 0x8 = some (.reserved8to15 0) ∧
  decodeTableWord 32 0xAA55AA55 = some .wireStart ∧ decodeTableWord 32 0x55AA55AA = some .wireEnd ∧
  decodeTableWord 16 0xF800 = some (.wireCellBig 31 0 0) ∧
  decodeTableWord 8 0x30 = some .wireMaskChar0 ∧ decodeTableWord 8 0x31 = some .wireMaskChar1 ∧
  decodeTableWord 8 0x0A = some .wireMaskNewline

/-- The channels of a two-byte token lie where 30_encoding.md R76 derives them, in each byte order. -/
def Obligations.CellTokensSplitIntoTheirChannels : Prop :=
  ∀ p0 p1 : Byte,
    (∃ r g b, decode (.token 0 [p0, p1]) = .ok (.wireCellBig r g b) ∧
      r.toNat = p0.toNat / 8 ∧ g.toNat = p0.toNat % 8 * 8 + p1.toNat / 32 ∧ b.toNat = p1.toNat % 32) ∧
    (∃ r g b, decode (.token 1 [p0, p1]) = .ok (.wireCellLittle r g b) ∧
      r.toNat = p1.toNat / 8 ∧ g.toNat = p1.toNat % 8 * 8 + p0.toNat / 32 ∧ b.toNat = p0.toNat % 32)

/-! ## The step -/

/-- A step performs the oldest item of the inbox: the decoded instruction runs on the state without that
item; an item that is no instruction is refused; with nothing issued nothing happens (log 1). -/
def Obligations.StepRunsTheDecodedInstruction : Prop :=
  ∀ s : State,
    (s.inbox = [] → step s = .next s) ∧
    ∀ (item : HostItem) (rest : List HostItem), s.inbox = item :: rest →
      (∀ i, decode item = .ok i → step s = exec i { s with inbox := rest }) ∧
      (∀ why, decode item = .error why → step s = .refused (.notAnInstruction why))

/-! ## RESET, STATUS, reserved codes -/

/-- RESET with a well-formed configuration leaves exactly the reset values and returns `OK`; with an
ill-formed one it changes nothing and returns `REFUSED_CFG`. It does so in every state, faulted or never
reset. Its code is 0. The reply's place and the untouched parameter and inbox are the model's
(log 1, 2, 5). -/
def Obligations.ResetLoadsTheResetValuesOrRefuses : Prop :=
  (∀ c : Command, c.op = 0 → decode (.command c) = .ok (.reset (decodeCfg c.cfg))) ∧
  ∀ (c : Cfg) (s : State),
    ((1 ≤ c.width ∧ c.width ≤ 65535 ∧ 1 ≤ c.height ∧ c.height ≤ 65535 ∧ 1 ≤ c.bpp ∧ c.bpp ≤ 255 ∧
        c.width * c.height * c.bpp < 2 ^ 32 ∧ c.width * c.height * 3 < 2 ^ 32) →
      exec (.reset c) s = .next
        { s with
          configured := true, cfg := c, buf := [], sync := .seekingStart, base := 0,
          maskRows := [], fault := .noFault,
          replies := s.replies ++ [.single (.ok .nothing)] }) ∧
    (¬ (1 ≤ c.width ∧ c.width ≤ 65535 ∧ 1 ≤ c.height ∧ c.height ≤ 65535 ∧ 1 ≤ c.bpp ∧ c.bpp ≤ 255 ∧
        c.width * c.height * c.bpp < 2 ^ 32 ∧ c.width * c.height * 3 < 2 ^ 32) →
      exec (.reset c) s = .next { s with replies := s.replies ++ [.single .refusedCfg] })

/-- `State.reset` is the never-reset machine after RESET with the reference configuration whose byte order
and short policy are the model's choice (log 4; BUF_CAP log 5). -/
def Obligations.ResetStateIsTheMachineRightAfterReset : Prop :=
  exec (.reset (referenceCfg .bigFirst .reject)) State.powerOn =
    .next { State.reset with replies := [.single (.ok .nothing)] }

/-- STATUS, code 6, returns the status tuple, faulted or not, and writes nothing. -/
def Obligations.StatusReturnsTheStatusTuple : Prop :=
  (∀ c : Command, c.op = 6 → decode (.command c) = .ok .status) ∧
  ∀ s : State, s.configured = true →
    exec .status s = .next { s with
      replies := s.replies ++
        [.single (.ok (.status ⟨s.sync, s.buf.length, s.base, s.maskRows.length, s.fault⟩))] }

/-- The command codes 7 to 15 return `ILLEGAL_OP` and write nothing in every state, a faulted or a never
reset one included. -/
def Obligations.ReservedCodesReturnIllegalOp : Prop :=
  ∀ (c : Command) (s : State), 7 ≤ c.op.toNat →
    ∃ i, decode (.command c) = .ok i ∧
      exec i s = .next { s with replies := s.replies ++ [.single .illegalOp] }

/-- On a block that was never reset every operation but RESET and the reserved codes is refused (log 3). -/
def Obligations.NeverResetBlockRefusesOperations : Prop :=
  ∀ s : State, s.configured = false →
    ∀ i : Instr, i ∈ [.tryExtract, .status, .drain, .pipe, .wireStart, .wireEnd, .wireMaskChar0,
        .wireMaskChar1, .wireMaskNewline] ∨
      (∃ b, i = .feed b) ∨ (∃ p n, i = .decodeRgb565 p n) ∨ (∃ p, i = .decodeMask p) ∨
      (∃ l, i = .maskRow l) ∨ (∃ b bs, i = .feedn (b :: bs)) ∨
      (∃ bs rest, i = .run (.chunk bs :: rest)) ∨ (∃ r g b, i = .wireCellBig r g b) ∨
      (∃ r g b, i = .wireCellLittle r g b) →
    exec i s = .refused .neverReset

/-! ## FEED and FEEDN -/

/-- FEED, code 1, appends its byte and returns `OK`; in a full buffer it sets the fault and returns `FAULT`, the byte
being lost; in a faulted block it changes nothing and returns `FAULT`. Nothing else changes. -/
def Obligations.FeedAppendsOneByteOrOverflows : Prop :=
  (∀ c : Command, c.op = 1 → decode (.command c) = .ok (.feed c.byte)) ∧
  ∀ (b : Byte) (s : State), s.configured = true →
    (s.fault = .noFault → s.bufCap ≠ some s.buf.length →
      exec (.feed b) s = .next { s with
        buf := s.buf ++ [b],
        replies := s.replies ++ [.single (.ok .nothing)] }) ∧
    (s.fault = .noFault → s.bufCap = some s.buf.length →
      exec (.feed b) s = .next { s with
        fault := .bufOverflow,
        replies := s.replies ++ [.single .fault] }) ∧
    (s.fault = .bufOverflow →
      exec (.feed b) s = .next { s with replies := s.replies ++ [.single .fault] })

/-- FEED stores to one stream offset, `base + len(buf)`, and every other byte reads as before; where it does
not append, every byte does. -/
def Obligations.FeedStoresOneByteOfTheStream : Prop :=
  ∀ (b : Byte) (s t : State), exec (.feed b) s = .next t →
    (∀ n, n ≠ s.streamEnd → t.byteAt n = s.byteAt n) ∧
    (s.fault = .noFault → s.bufCap ≠ some s.buf.length → t.byteAt s.streamEnd = some b) ∧
    (s.fault = .bufOverflow ∨ s.bufCap = some s.buf.length →
      t.byteAt s.streamEnd = s.byteAt s.streamEnd)

/-- FEEDN appends the whole chunk where there is room for it, and where there is not, the bytes before the
overflowing one; the results are those of its FEEDs in order. -/
def Obligations.FeednAppendsTheChunkUpToOverflow : Prop :=
  ∀ (chunk : ByteString) (s : State), s.Ready →
    ((∀ cap, s.bufCap = some cap → s.buf.length + chunk.length ≤ cap) →
      exec (.feedn chunk) s = .next { s with
        buf := s.buf ++ chunk, replies := s.replies ++
          [.sequence (List.replicate chunk.length (.ok .nothing))] }) ∧
    (∀ room, s.bufCap = some (s.buf.length + room) → room < chunk.length →
      exec (.feedn chunk) s = .next { s with
        buf := s.buf ++ chunk.take room, fault := .bufOverflow,
        replies := s.replies ++
          [.sequence (List.replicate room (.ok .nothing) ++ [.fault])] })

/-- Feeding a chunk whole or in two pieces leaves the same state, overflow or not. -/
def Obligations.FeednOfTwoPiecesIsFeednOfTheWhole : Prop :=
  ∀ (c1 c2 : ByteString) (s : State), s.configured = true →
    ∃ t u, issue [.feedn (c1 ++ c2)] s = some t ∧ issue [.feedn c1, .feedn c2] s = some u ∧
      t.withoutReplies = u.withoutReplies

/-- Each wire token, issued as an instruction, feeds its bytes in wire order (log 7). -/
def Obligations.WireTokensFeedTheirBytes : Prop :=
  ∀ (s : State) (r : BitVec 5) (g : BitVec 6) (b : BitVec 5), s.Ready → s.bufCap = none →
    ∀ (i : Instr) (bytes : List Nat),
      (i, bytes) ∈ [(.wireStart, [0xAA, 0x55, 0xAA, 0x55]), (.wireEnd, [0x55, 0xAA, 0x55, 0xAA]),
        (.wireMaskChar0, [0x30]), (.wireMaskChar1, [0x31]), (.wireMaskNewline, [0x0A]),
        (.wireCellBig r g b, [r.toNat * 8 + g.toNat / 8, g.toNat % 8 * 32 + b.toNat]),
        (.wireCellLittle r g b, [g.toNat % 8 * 32 + b.toNat, r.toNat * 8 + g.toNat / 8])] →
      exec i s = .next { s with
        buf := s.buf ++ bytes.map (BitVec.ofNat 8), replies := s.replies ++
          [.sequence (List.replicate bytes.length (.ok .nothing))] }

/-! ## TRY_EXTRACT and DRAIN -/

/-- TRY_EXTRACT, code 2, arm by arm: what is dropped, what `sync` and `base` become, and the result with its
payload, length and provenance. Nothing else changes, the arms cover every unfaulted state, and in a faulted
one it returns `FAULT`. -/
def Obligations.TryExtractFollowsItsAlgorithm : Prop :=
  (∀ c : Command, c.op = 2 → decode (.command c) = .ok .tryExtract) ∧
  (∀ s : State, s.configured = true → s.fault = .bufOverflow →
    exec .tryExtract s = .next { s with replies := s.replies ++ [.single .fault] }) ∧
  ∀ s : State, s.Ready →
    (s.sync = .seekingStart → Absent s.startBytes s.buf →
      exec .tryExtract s = .next { s with replies := s.replies ++ [.single .none] }) ∧
    (∀ i e, s.sync = .seekingStart → EarliestAt s.startBytes s.buf i → EarliestAt s.endBytes s.buf e →
      e < i →
      exec .tryExtract s = .next { s with
        buf := s.buf.drop (e + 4), base := s.base + (e + 4),
        replies := s.replies ++ [.single .malformedOrdering] }) ∧
    (∀ i, s.sync = .seekingStart → EarliestAt s.startBytes s.buf i →
      (∀ j < i, ¬ OccursAt s.endBytes s.buf j) → Absent s.endBytes (s.buf.drop (i + 4)) →
      exec .tryExtract s = .next { s with
        buf := s.buf.drop (i + 4), base := s.base + (i + 4),
        sync := .seekingEnd, replies := s.replies ++ [.single .none] }) ∧
    (∀ i e, s.sync = .seekingStart → EarliestAt s.startBytes s.buf i →
      (∀ j < i, ¬ OccursAt s.endBytes s.buf j) → EarliestAt s.endBytes (s.buf.drop (i + 4)) e →
      exec .tryExtract s = .next { s with
        buf := s.buf.drop (i + 4 + (e + 4)),
        base := s.base + (i + 4 + (e + 4)), sync := .seekingStart, replies := s.replies ++
          [.single (.ok (.rawFrame ⟨(s.buf.drop (i + 4)).take e, e, s.base + (i + 4),
          s.base + (i + 4) + e⟩))] }) ∧
    (s.sync = .seekingEnd → Absent s.endBytes s.buf →
      exec .tryExtract s = .next { s with replies := s.replies ++ [.single .none] }) ∧
    (∀ e, s.sync = .seekingEnd → EarliestAt s.endBytes s.buf e →
      exec .tryExtract s = .next { s with
        buf := s.buf.drop (e + 4), base := s.base + (e + 4),
        sync := .seekingStart, replies := s.replies ++
          [.single (.ok (.rawFrame ⟨s.buf.take e, e, s.base, s.base + e⟩))] })

/-- After a `NONE` the awaited marker is not in the buffer, and repeating the TRY_EXTRACT returns `NONE`
again and changes nothing. -/
def Obligations.TryExtractAfterNoneChangesNothing : Prop :=
  ∀ s t : State, exec .tryExtract s = .next t → t.replies = s.replies ++ [.single .none] →
    (t.sync = .seekingStart → Absent t.startBytes t.buf) ∧
    (t.sync = .seekingEnd → Absent t.endBytes t.buf) ∧
    exec .tryExtract t = .next { t with replies := t.replies ++ [.single .none] }

/-- Prefix determinism: bytes appended before a TRY_EXTRACT that finds what it searches for change neither
its result nor what it drops, and a `NONE` only does early what the next attempt would do first. -/
def Obligations.AppendedBytesDoNotChangeAnExtraction : Prop :=
  ∀ (s t : State) (r : Result) (x : ByteString), s.Ready →
    exec .tryExtract s = .next t → t.replies = s.replies ++ [.single r] →
    (r ≠ .none → exec .tryExtract { s with buf := s.buf ++ x } = .next { t with buf := t.buf ++ x }) ∧
    (r = .none → exec .tryExtract { s with buf := s.buf ++ x } =
      exec .tryExtract { t with buf := t.buf ++ x, replies := s.replies })

/-- DRAIN is TRY_EXTRACT repeated until one returns `NONE`, and its reply lists the results before that. -/
def Obligations.DrainRepeatsTryExtractUntilNone : Prop :=
  ∀ s : State, s.Ready →
    ∃ t u rs, exec .drain s = .next t ∧ t.replies = s.replies ++ [.sequence rs] ∧
      (∀ r ∈ rs, isExtraction r = true) ∧
      issue (List.replicate (rs.length + 1) .tryExtract) s = some u ∧
      u.replies = s.replies ++ rs.map .single ++ [.single .none] ∧
      u.withoutReplies = t.withoutReplies

/-- Marker-split resilience on a block of unbounded capacity: however the stream is cut into chunks and however
many TRY_EXTRACT operations stand between them, after a final DRAIN the RawFrames and MALFORMED_ORDERING results
and the state are those of feeding it whole (40_synchronizer.md R111; a finite capacity that the stream does not
exceed is left out). -/
def Obligations.ChunkingDoesNotChangeTheFrames : Prop :=
  ∀ (s : State) (schedule : List (ByteString × Nat)), s.Ready → s.bufCap = none →
    ∃ t u newT newU,
      issue (schedule.flatMap (fun c => .feedn c.1 :: List.replicate c.2 .tryExtract) ++ [.drain]) s
        = some t ∧
      issue [.feedn (schedule.flatMap Prod.fst), .drain] s = some u ∧
      t.withoutReplies = u.withoutReplies ∧
      t.replies = s.replies ++ newT ∧ u.replies = s.replies ++ newU ∧
      extractions newT = extractions newU

/-- Resync correctness: from `START A END END START B END` the stray END is reported and frame B is intact. -/
def Obligations.StrayEndIsReportedAndTheNextFrameIsIntact : Prop :=
  ∀ (s : State) (a b : ByteString), s.Ready → s.bufCap = none → s.buf = [] → s.sync = .seekingStart →
    EarliestAt s.endBytes (a ++ s.endBytes) a.length → EarliestAt s.endBytes (b ++ s.endBytes) b.length →
    EarliestAt s.startBytes (s.endBytes ++ s.startBytes) 4 →
    ∃ t first, issue [.feedn (s.startBytes ++ a ++ s.endBytes ++ s.endBytes ++ s.startBytes ++ b ++
        s.endBytes), .drain] s = some t ∧
      t.buf = [] ∧ t.sync = .seekingStart ∧ t.base = s.base + (a.length + b.length + 20) ∧
      t.replies = s.replies ++ [first, .sequence
        [.ok (.rawFrame ⟨a, a.length, s.base + 4, s.base + 4 + a.length⟩), .malformedOrdering,
         .ok (.rawFrame ⟨b, b.length, s.base + a.length + 16, s.base + a.length + 16 + b.length⟩)]]

/-- Idempotent resume: whatever was fed and extracted before, after RESET a fresh `START B END` yields
exactly frame B; without the RESET an open frame takes the second START marker as payload. -/
def Obligations.ResetAbandonsThePartialPayload : Prop :=
  ∀ (s : State) (c : Cfg) (fed : ByteString) (tries : Nat) (b : ByteString), s.configured = true →
    s.bufCap = none → cfgWellFormed c = true →
    EarliestAt (markerBytes c.endMarker) (b ++ markerBytes c.endMarker) b.length →
    ∃ t before fst, issue ([.feedn fed] ++ List.replicate tries .tryExtract ++ [.reset c,
        .feedn (markerBytes c.startMarker ++ b ++ markerBytes c.endMarker), .drain]) s = some t ∧
      t.buf = [] ∧ t.sync = .seekingStart ∧ t.base = b.length + 8 ∧
      t.replies = before ++ [.single (.ok .nothing), fst,
        .sequence [.ok (.rawFrame ⟨b, b.length, 4, 4 + b.length⟩)]]

/-- Without a RESET an open frame takes everything up to the next END marker, a START marker included, as
one payload. -/
def Obligations.StartMarkerInsideAnOpenFrameIsPayload : Prop :=
  ∀ (s : State) (a b : ByteString), s.Ready → s.bufCap = none → s.buf = [] → s.sync = .seekingStart →
    EarliestAt s.endBytes (a ++ s.startBytes ++ b ++ s.endBytes) (a.length + 4 + b.length) →
    ∃ t first, issue [.feedn (s.startBytes ++ a ++ s.startBytes ++ b ++ s.endBytes), .drain] s = some t ∧
      t.buf = [] ∧ t.sync = .seekingStart ∧
      t.replies = s.replies ++ [first, .sequence [.ok (.rawFrame ⟨a ++ s.startBytes ++ b,
        a.length + 4 + b.length, s.base + 4, s.base + 4 + (a.length + 4 + b.length)⟩)]]

/-- Incremental scanning: where the marker was not in the bytes already scanned, searching from three bytes
before their end gives the result of searching the whole buffer. -/
def Obligations.IncrementalScanFindsTheSameMarker : Prop :=
  ∀ (m : Marker) (old new : ByteString), Absent (markerBytes m) old →
    find (markerBytes m) (old ++ new) =
      (find (markerBytes m) ((old ++ new).drop (old.length - 3))).map (· + (old.length - 3))

/-! ## DECODE.RGB565 -/

/-- Channel expansion by bit replication: as shifts whose operands have no 1 bit in common, and as numbers. -/
def Obligations.ChannelsExpandByBitReplication : Prop :=
  (∀ x : BitVec 5, exp5 x = x.setWidth 8 <<< 3 ||| x.setWidth 8 >>> 2 ∧
    x.setWidth 8 <<< 3 &&& x.setWidth 8 >>> 2 = 0 ∧ (exp5 x).toNat = 8 * x.toNat + x.toNat / 4) ∧
  (∀ y : BitVec 6, exp6 y = y.setWidth 8 <<< 2 ||| y.setWidth 8 >>> 4 ∧
    y.setWidth 8 <<< 2 &&& y.setWidth 8 >>> 4 = 0 ∧ (exp6 y).toNat = 4 * y.toNat + y.toNat / 16)

/-- DECODE.RGB565 of the expected frame size accepts a long payload (truncated), an exact one, and under
PAD a short one; every pixel is the bit-replicated expansion of its cell in the configured byte order.
Nothing but the reply changes. -/
def Obligations.DecodeRgb565ConvertsEveryCell : Prop :=
  ∀ (payload : ByteString) (s : State), s.Ready →
    (s.cfg.width * s.cfg.height * 2 ≤ payload.length ∨ s.cfg.shortPolicy = .pad) →
    ∃ pixels, exec (.decodeRgb565 payload (s.cfg.width * s.cfg.height * 2)) s =
        .next { s with
          replies := s.replies ++ [.single (.ok (.rgbFrame
            ⟨s.cfg.width, s.cfg.height, .rgb888, pixels⟩
            (decide (s.cfg.width * s.cfg.height * 2 < payload.length))))] } ∧
      pixels.length = 3 * (s.cfg.width * s.cfg.height) ∧
      ∀ k < s.cfg.width * s.cfg.height,
        let v := cellNumber s.cfg.byteOrder (payload[2 * k]?.getD 0) (payload[2 * k + 1]?.getD 0)
        let r5 := v / 2048
        let g6 := v / 32 % 64
        let b5 := v % 32
        pixels[3 * k]? = some (BitVec.ofNat 8 (8 * r5 + r5 / 4)) ∧
        pixels[3 * k + 1]? = some (BitVec.ofNat 8 (4 * g6 + g6 / 16)) ∧
        pixels[3 * k + 2]? = some (BitVec.ofNat 8 (8 * b5 + b5 / 4))

/-- DECODE.RGB565 rejects: a short payload under REJECT first of all; then an odd expected size; then an
even one that is not `WIDTH * HEIGHT * 2`. Nothing but the reply changes. -/
def Obligations.DecodeRgb565RejectsInOrder : Prop :=
  ∀ (payload : ByteString) (size : Nat) (s : State), s.Ready →
    (payload.length < size → s.cfg.shortPolicy = .reject →
      exec (.decodeRgb565 payload size) s =
        .next { s with replies := s.replies ++ [.single (.sizeMismatch false)] }) ∧
    (size ≤ payload.length ∨ s.cfg.shortPolicy = .pad → size % 2 = 1 →
      exec (.decodeRgb565 payload size) s = .next { s with
        replies := s.replies ++
          [.single (.malformedPayload (decide (size < payload.length)))] }) ∧
    (size ≤ payload.length ∨ s.cfg.shortPolicy = .pad → size % 2 = 0 →
      size ≠ s.cfg.width * s.cfg.height * 2 →
      exec (.decodeRgb565 payload size) s = .next { s with
        replies := s.replies ++
          [.single (.sizeMismatch (decide (size < payload.length)))] })

/-- Every result of DECODE.RGB565 other than `FAULT` carries the truncation warning, which is set exactly
when the payload is longer than the expected size; a truncated payload is accepted or rejected with the warning
set. -/
def Obligations.TruncationWarningAccompaniesEveryRgbResult : Prop :=
  ∀ (payload : ByteString) (size : Nat) (s : State), s.configured = true →
    ∃ r, exec (.decodeRgb565 payload size) s = .next { s with replies := s.replies ++ [.single r] } ∧
      (s.fault = .noFault → truncatedOf r = some (decide (size < payload.length))) ∧
      (s.fault = .bufOverflow → r = .fault ∧ truncatedOf r = none) ∧
      (s.fault = .noFault → size < payload.length →
        (∃ f, r = .ok (.rgbFrame f true)) ∨ r = .malformedPayload true ∨ r = .sizeMismatch true)

/-- DECODE.RGB565 is a pure function: two blocks that agree on the fault, the sizes, the byte order and the
short policy return the same result, and neither changes. -/
def Obligations.DecodeRgb565ReadsOnlyItsConfiguration : Prop :=
  ∀ (payload : ByteString) (size : Nat) (s1 s2 : State), s1.configured = true → s2.configured = true →
    s1.fault = s2.fault → s1.cfg.width = s2.cfg.width → s1.cfg.height = s2.cfg.height →
    s1.cfg.byteOrder = s2.cfg.byteOrder → s1.cfg.shortPolicy = s2.cfg.shortPolicy →
    ∃ r, exec (.decodeRgb565 payload size) s1 = .next { s1 with replies := s1.replies ++ [.single r] } ∧
      exec (.decodeRgb565 payload size) s2 = .next { s2 with replies := s2.replies ++ [.single r] }

/-- A cell sent as a wire token and decoded in the sender's byte order gives its own channels, expanded
(the token's meaning is log 7). -/
def Obligations.CellTokenDecodesToItsOwnChannels : Prop :=
  ∀ (r : BitVec 5) (g : BitVec 6) (b : BitVec 5) (s : State) (i : Instr), s.Ready → s.bufCap = none →
    s.buf = [] → s.cfg.width = 1 → s.cfg.height = 1 →
    (s.cfg.byteOrder = .bigFirst ∧ i = .wireCellBig r g b ∨
     s.cfg.byteOrder = .littleFirst ∧ i = .wireCellLittle r g b) →
    ∃ t, exec i s = .next t ∧
      exec (.decodeRgb565 t.buf 2) t = .next { t with replies := t.replies ++
        [.single (.ok (.rgbFrame ⟨1, 1, .rgb888, [exp5 r, exp6 g, exp5 b]⟩ false))] }

/-! ## MASK_ROW and DECODE.MASK -/

/-- MASK_ROW, code 5: an invalid line is dropped; a valid one is appended to the accumulator; the HEIGHT-th
valid row completes a frame and empties it. Nothing else changes. A faulted block returns `FAULT`. The bound on
the line's length is R86's. -/
def Obligations.MaskRowAccumulatesValidRows : Prop :=
  (∀ c : Command, c.op = 5 → c.bytes.length < 4294967296 → decode (.command c) = .ok (.maskRow c.bytes)) ∧
  (∀ (line : ByteString) (s : State), s.configured = true → s.fault = .bufOverflow →
    exec (.maskRow line) s = .next { s with replies := s.replies ++ [.single .fault] }) ∧
  ∀ (line : ByteString) (s : State), s.Ready →
    (¬ (line.length = s.cfg.width ∧ ∀ b ∈ line, b = 0x30 ∨ b = 0x31) →
      exec (.maskRow line) s = .next { s with replies := s.replies ++ [.single .none] }) ∧
    (line.length = s.cfg.width → (∀ b ∈ line, b = 0x30 ∨ b = 0x31) →
      s.maskRows.length + 1 ≠ s.cfg.height →
      exec (.maskRow line) s = .next { s with
        maskRows := s.maskRows ++ [line.map (· - 0x30)],
        replies := s.replies ++ [.single .none] }) ∧
    (line.length = s.cfg.width → (∀ b ∈ line, b = 0x30 ∨ b = 0x31) →
      s.maskRows.length + 1 = s.cfg.height →
      exec (.maskRow line) s = .next { s with
        maskRows := [], replies := s.replies ++
          [.single (.ok (.maskFrame ⟨s.cfg.width, s.cfg.height, .binaryMask,
          s.maskRows.flatten ++ line.map (· - 0x30)⟩))] })

/-- The lines of a payload: cut at every newline and nowhere else, one more than there are newlines. -/
def Obligations.LinesCutThePayloadAtEveryNewline : Prop :=
  ∀ payload : ByteString,
    List.intercalate [0x0A] (splitLines payload) = payload ∧
    (splitLines payload).length = payload.count 0x0A + 1 ∧
    ∀ line ∈ splitLines payload, (0x0A : Byte) ∉ line

/-- DECODE.MASK gives every line of its payload to MASK_ROW in order and collects the completed frames. -/
def Obligations.DecodeMaskIsMaskRowOfEveryLine : Prop :=
  ∀ (ls : List ByteString) (s : State), s.Ready → ls ≠ [] → (∀ line ∈ ls, (0x0A : Byte) ∉ line) →
    ∃ t u r news, exec (.decodeMask (List.intercalate [0x0A] ls)) s = .next t ∧
      issue (ls.map .maskRow) s = some u ∧ t.withoutReplies = u.withoutReplies ∧
      u.replies = s.replies ++ news ∧ t.replies = s.replies ++ [.single r] ∧
      (news.flatMap framesOfReply = [] → r = .none) ∧
      (news.flatMap framesOfReply ≠ [] → r = .ok (.maskFrames (news.flatMap framesOfReply)))

/-- DECODE.MASK as a fold: a payload joined by a newline is decoded like its two parts one after the
other. -/
def Obligations.DecodeMaskOfJoinedPayloads : Prop :=
  ∀ (p q : ByteString) (s : State), s.Ready →
    ∃ t u newT newU, issue [.decodeMask (p ++ [0x0A] ++ q)] s = some t ∧
      issue [.decodeMask p, .decodeMask q] s = some u ∧ t.withoutReplies = u.withoutReplies ∧
      t.replies = s.replies ++ newT ∧ u.replies = s.replies ++ newU ∧
      newT.flatMap framesOfReply = newU.flatMap framesOfReply

/-- Mask row filtering: of a short row, a row that holds a `'2'` and a valid row, only the valid one counts,
fed row by row or as one payload. -/
def Obligations.OnlyTheValidRowCounts : Prop :=
  ∀ (l1 l2 l3 : ByteString) (s : State), s.Ready → s.maskRows = [] → 2 ≤ s.cfg.height →
    l1.length + 1 = s.cfg.width → (0x0A : Byte) ∉ l1 → (0x0A : Byte) ∉ l2 → (0x32 : Byte) ∈ l2 →
    l3.length = s.cfg.width → (∀ b ∈ l3, b = 0x30 ∨ b = 0x31) →
    issue [.maskRow l1, .maskRow l2, .maskRow l3] s = some { s with
      maskRows := [l3.map (· - 0x30)],
      replies := s.replies ++ [.single .none, .single .none, .single .none] } ∧
    exec (.decodeMask (l1 ++ [0x0A] ++ l2 ++ [0x0A] ++ l3)) s = .next
      { s with maskRows := [l3.map (· - 0x30)], replies := s.replies ++ [.single .none] }

/-! ## PIPE and RUN -/

/-- PIPE issues TRY_EXTRACT and, on a RawFrame, the decode that `cfg.FORMAT` selects with `expected_size`
`WIDTH * HEIGHT * BPP`; any other result is PIPE's own. -/
def Obligations.PipeDecodesTheExtractedFrame : Prop :=
  ∀ s : State, s.configured = true →
    ∃ t r, exec .tryExtract s = .next t ∧ t.replies = s.replies ++ [.single r] ∧
      ((∀ f, r ≠ .ok (.rawFrame f)) → exec .pipe s = .next t) ∧
      ∀ f, r = .ok (.rawFrame f) →
        ∃ u, exec .pipe s = .next u ∧
          (s.cfg.format = .rgb565 →
            exec (.decodeRgb565 f.payload (s.cfg.width * s.cfg.height * s.cfg.bpp))
              { t with replies := s.replies } = .next u) ∧
          (s.cfg.format = .mask →
            exec (.decodeMask f.payload) { t with replies := s.replies } = .next u)

/-- PIPE on a block whose open frame is complete in the buffer: it completes, with the state and the result
that decoding the payload gives in the block from which the frame has been extracted. -/
def Obligations.PipeDecodesAnOpenFrame : Prop :=
  ∀ (s after : State) (e : Nat), s.Ready → s.sync = .seekingEnd → EarliestAt s.endBytes s.buf e →
    after = { s with buf := s.buf.drop (e + 4), base := s.base + (e + 4), sync := .seekingStart } →
    ∃ u, exec .pipe s = .next u ∧
      (s.cfg.format = .rgb565 → exec (.decodeRgb565 (s.buf.take e)
        (s.cfg.width * s.cfg.height * s.cfg.bpp)) after = .next u) ∧
      (s.cfg.format = .mask → exec (.decodeMask (s.buf.take e)) after = .next u)

/-- RUN that is stopped before its first read, or whose source is closed, touches no block.
The operand's form, a list of reads whose end is the stop signal, and the
list of host events are the model's choices (log 10, log 2). -/
def Obligations.RunStopsBeforeItsFirstRead : Prop :=
  ∀ (rest : List SourceRead) (s : State),
    exec (.run []) s = .next { s with replies := s.replies ++ [.loop []] } ∧
    exec (.run (.closed :: rest)) s =
      .next { s with replies := s.replies ++ [.loop [.terminalSourceClosed]] }

/-- RUN over one chunk feeds it and drains the buffer, decoding each frame: in the RGB565 format every
result of the drain is reported or delivered in order, in the mask format the frames completed by the lines of
all payloads are delivered. The operand's form, a list of reads whose end is the stop signal, and the
list of host events are the model's choices (log 10, log 2). -/
def Obligations.RunDeliversWhatTheDrainYields : Prop :=
  ∀ (chunk : ByteString) (s : State), s.Ready → s.bufCap = none →
    ∃ t u events rs fst, exec (.run [.chunk chunk]) s = .next t ∧
      t.replies = s.replies ++ [.loop events] ∧
      issue [.feedn chunk, .drain] s = some u ∧ u.replies = s.replies ++ [fst, .sequence rs] ∧
      t.withoutReplies = { u.withoutReplies with maskRows := t.maskRows } ∧
      (s.cfg.format = .rgb565 → t.maskRows = s.maskRows ∧
        events = rs.flatMap (fun r => match frameOf r with
          | some f => deliver (rgb565Result s.cfg f.payload (s.cfg.width * s.cfg.height * s.cfg.bpp))
          | none => [.reportMalformedOrdering])) ∧
      (s.cfg.format = .mask →
        t.maskRows = (acceptLines s
          ((rs.filterMap frameOf).flatMap (fun f => splitLines f.payload))).1.maskRows ∧
        events.flatMap framesOfEvent = (acceptLines s
          ((rs.filterMap frameOf).flatMap (fun f => splitLines f.payload))).2)

/-- RUN performs one read after another, and an overflow of the buffer ends it with an error.
The operand's form, a list of reads whose end is the stop signal, and the
list of host events are the model's choices (log 10, log 2). -/
def Obligations.RunReadsUntilStoppedOrFaulted : Prop :=
  ∀ (chunk : ByteString) (rest : List SourceRead) (s : State), s.Ready →
    ((∀ cap, s.bufCap = some cap → s.buf.length + chunk.length ≤ cap) →
      ∃ u v eventsU eventsV, exec (.run [.chunk chunk]) s = .next u ∧
        u.replies = s.replies ++ [.loop eventsU] ∧
        exec (.run rest) { u with replies := s.replies } = .next v ∧
        v.replies = s.replies ++ [.loop eventsV] ∧
        exec (.run (.chunk chunk :: rest)) s =
          .next { v with replies := s.replies ++ [.loop (eventsU ++ eventsV)] }) ∧
    (∀ room, s.bufCap = some (s.buf.length + room) → room < chunk.length →
      exec (.run (.chunk chunk :: rest)) s = .next { s with
        buf := s.buf ++ chunk.take room,
        fault := .bufOverflow, replies := s.replies ++ [.loop [.terminalFault]] })

/-! ## The fault -/

/-- The fault is sticky: in a faulted block FEED, TRY_EXTRACT, DECODE.RGB565, DECODE.MASK and MASK_ROW
return `FAULT` and change nothing, STATUS shows the fault, the reserved codes return `ILLEGAL_OP`, RESET with a
well-formed configuration clears everything, and no other instruction clears the fault. -/
def Obligations.FaultStaysUntilReset : Prop :=
  ∀ s : State, s.configured = true → s.fault = .bufOverflow →
    (∀ i : Instr, (∃ b, i = .feed b) ∨ i = .tryExtract ∨ (∃ p n, i = .decodeRgb565 p n) ∨
        (∃ p, i = .decodeMask p) ∨ (∃ l, i = .maskRow l) →
      exec i s = .next { s with replies := s.replies ++ [.single .fault] }) ∧
    exec .status s = .next { s with replies := s.replies ++
      [.single (.ok (.status ⟨s.sync, s.buf.length, s.base, s.maskRows.length, .bufOverflow⟩))] } ∧
    (∀ i : Instr, i = .reserved7 ∨ (∃ low, i = .reserved8to15 low) →
      exec i s = .next { s with replies := s.replies ++ [.single .illegalOp] }) ∧
    (∀ c : Cfg, cfgWellFormed c = true →
      exec (.reset c) s = .next
        { s with
          cfg := c, buf := [], sync := .seekingStart, base := 0, maskRows := [], fault := .noFault,
          replies := s.replies ++ [.single (.ok .nothing)] }) ∧
    ∀ (i : Instr) (t : State), exec i s = .next t → isReset i = false → t.fault = .bufOverflow

/-- No instruction but RESET, the pseudo-operations and wire tokens included, changes anything of a faulted
block. -/
def Obligations.OnlyResetLeavesTheFaultedState : Prop :=
  ∀ (i : Instr) (s t : State), exec i s = .next t → s.fault = .bufOverflow → isReset i = false →
    t.withoutReplies = s.withoutReplies

/-- A block with unbounded capacity never faults. -/
def Obligations.UnboundedBlockNeverFaults : Prop :=
  ∀ s t : State, s.bufCap = none → s.fault = .noFault → step s = .next t →
    t.bufCap = none ∧ t.fault = .noFault

/-! ## The whole machine -/

/-- Every instruction completes on a block that was reset, and hands the host exactly one reply (log 2). -/
def Obligations.EveryInstructionReturnsOneReply : Prop :=
  ∀ (i : Instr) (s : State), s.configured = true →
    ∃ t reply, exec i s = .next t ∧ t.replies = s.replies ++ [reply]

/-- Each operation returns only the result codes that its row of the opcode table and of the table of result
codes gives it. -/
def Obligations.OperationsReturnOnlyTheirOwnCodes : Prop :=
  ∀ (i : Instr) (s t : State) (r : Result), exec i s = .next t →
    t.replies = s.replies ++ [.single r] → resultCode r ∈ codesOf i

/-- No operation reads what it returned before or what is still to come: only the variables of the spec's
state and the operands decide (the two fields are the model's, log 1 and log 2). -/
def Obligations.RepliesAndInboxAreNeverRead : Prop :=
  ∀ (i : Instr) (s t : State), exec i s = .next t →
    t.inbox = s.inbox ∧ ∃ reply, t.replies = s.replies ++ [reply] ∧
      ∀ (inbox : List HostItem) (replies : List Reply),
        exec i { s with inbox := inbox, replies := replies } =
          .next { t with inbox := inbox, replies := replies ++ [reply] }

/-- Which instruction may write which variable: `cfg` RESET only; `sync` and `base` only what issues
TRY_EXTRACT; `mask_rows` only what issues MASK_ROW or DECODE.MASK; `fault` and the end of the stream only what
issues FEED; the bytes only what issues FEED or TRY_EXTRACT; BUF_CAP nothing (log 5). -/
def Obligations.EachVariableHasItsWriters : Prop :=
  ∀ (i : Instr) (s t : State), exec i s = .next t →
    t.bufCap = s.bufCap ∧
    (isReset i = false → t.configured = s.configured ∧ t.cfg = s.cfg) ∧
    (isReset i = false → mayExtract i = false → t.sync = s.sync ∧ t.base = s.base) ∧
    (isReset i = false → mayAccumulate i = false → t.maskRows = s.maskRows) ∧
    (isReset i = false → mayFeed i = false → t.fault = s.fault ∧ t.streamEnd = s.streamEnd) ∧
    (isReset i = false → mayFeed i = false → mayExtract i = false →
      t.buf = s.buf ∧ ∀ n, t.byteAt n = s.byteAt n)

/-- Forward only: no instruction but RESET lowers `base`, and a byte that is still retained keeps its
stream offset and its value. -/
def Obligations.StreamMovesOnlyForward : Prop :=
  ∀ (i : Instr) (s t : State), exec i s = .next t → isReset i = false →
    s.base ≤ t.base ∧ s.streamEnd ≤ t.streamEnd ∧
    ∀ n, t.base ≤ n → n < s.streamEnd → t.byteAt n = s.byteAt n

/-- The invariants of 10_state.md R35 (a) to (c): a well-formed configuration, a buffer within its capacity,
fewer than HEIGHT mask rows, each of WIDTH cells 0 or 1. Every step keeps them. -/
def Obligations.StepKeepsTheStateInvariant : Prop :=
  ∀ s t : State, s.Inv → step s = .next t → t.Inv

/-- The reset state, and the state before the first reset, meet the invariant. -/
def Obligations.ResetStateMeetsTheInvariant : Prop := State.reset.Inv ∧ State.powerOn.Inv

/-- The PixelFrame invariant: every frame a step returns has exactly the declared number of bytes, and a
mask frame holds only 0 and 1. -/
def Obligations.ReturnedFramesHaveTheirDeclaredSize : Prop :=
  ∀ s t : State, s.Inv → step s = .next t →
    ∃ new, t.replies = s.replies ++ new ∧
      ∀ reply ∈ new, ∀ f ∈ framesOfReply reply, pixelFrameWf f
end

