-- ==== Sys2Proof/Laws/State.lean ====
section
/-! SUPPORT. The fields of the state after each named update: one lemma per field per update. -/

namespace Sys2Proof.Machine

variable (s : State)

/-! ## `appendByte` -/

@[simp] theorem State.appendByte_bufCap (b : Byte) : (s.appendByte b).bufCap = s.bufCap := rfl
@[simp] theorem State.appendByte_configured (b : Byte) : (s.appendByte b).configured = s.configured := rfl
@[simp] theorem State.appendByte_cfg (b : Byte) : (s.appendByte b).cfg = s.cfg := rfl
@[simp] theorem State.appendByte_buf (b : Byte) : (s.appendByte b).buf = s.buf ++ [b] := rfl
@[simp] theorem State.appendByte_sync (b : Byte) : (s.appendByte b).sync = s.sync := rfl
@[simp] theorem State.appendByte_base (b : Byte) : (s.appendByte b).base = s.base := rfl
@[simp] theorem State.appendByte_maskRows (b : Byte) : (s.appendByte b).maskRows = s.maskRows := rfl
@[simp] theorem State.appendByte_fault (b : Byte) : (s.appendByte b).fault = s.fault := rfl
@[simp] theorem State.appendByte_inbox (b : Byte) : (s.appendByte b).inbox = s.inbox := rfl
@[simp] theorem State.appendByte_replies (b : Byte) : (s.appendByte b).replies = s.replies := rfl

/-! ## `dropFront` -/

@[simp] theorem State.dropFront_bufCap (n : Nat) : (s.dropFront n).bufCap = s.bufCap := rfl
@[simp] theorem State.dropFront_configured (n : Nat) : (s.dropFront n).configured = s.configured := rfl
@[simp] theorem State.dropFront_cfg (n : Nat) : (s.dropFront n).cfg = s.cfg := rfl
@[simp] theorem State.dropFront_buf (n : Nat) : (s.dropFront n).buf = s.buf.drop n := rfl
@[simp] theorem State.dropFront_sync (n : Nat) : (s.dropFront n).sync = s.sync := rfl
@[simp] theorem State.dropFront_base (n : Nat) : (s.dropFront n).base = s.base + n := rfl
@[simp] theorem State.dropFront_maskRows (n : Nat) : (s.dropFront n).maskRows = s.maskRows := rfl
@[simp] theorem State.dropFront_fault (n : Nat) : (s.dropFront n).fault = s.fault := rfl
@[simp] theorem State.dropFront_inbox (n : Nat) : (s.dropFront n).inbox = s.inbox := rfl
@[simp] theorem State.dropFront_replies (n : Nat) : (s.dropFront n).replies = s.replies := rfl

/-! ## `setSync` -/

@[simp] theorem State.setSync_bufCap (v : Sync) : (s.setSync v).bufCap = s.bufCap := rfl
@[simp] theorem State.setSync_configured (v : Sync) : (s.setSync v).configured = s.configured := rfl
@[simp] theorem State.setSync_cfg (v : Sync) : (s.setSync v).cfg = s.cfg := rfl
@[simp] theorem State.setSync_buf (v : Sync) : (s.setSync v).buf = s.buf := rfl
@[simp] theorem State.setSync_sync (v : Sync) : (s.setSync v).sync = v := rfl
@[simp] theorem State.setSync_base (v : Sync) : (s.setSync v).base = s.base := rfl
@[simp] theorem State.setSync_maskRows (v : Sync) : (s.setSync v).maskRows = s.maskRows := rfl
@[simp] theorem State.setSync_fault (v : Sync) : (s.setSync v).fault = s.fault := rfl
@[simp] theorem State.setSync_inbox (v : Sync) : (s.setSync v).inbox = s.inbox := rfl
@[simp] theorem State.setSync_replies (v : Sync) : (s.setSync v).replies = s.replies := rfl

/-! ## `setFault` -/

@[simp] theorem State.setFault_bufCap (v : FaultFlag) : (s.setFault v).bufCap = s.bufCap := rfl
@[simp] theorem State.setFault_configured (v : FaultFlag) : (s.setFault v).configured = s.configured := rfl
@[simp] theorem State.setFault_cfg (v : FaultFlag) : (s.setFault v).cfg = s.cfg := rfl
@[simp] theorem State.setFault_buf (v : FaultFlag) : (s.setFault v).buf = s.buf := rfl
@[simp] theorem State.setFault_sync (v : FaultFlag) : (s.setFault v).sync = s.sync := rfl
@[simp] theorem State.setFault_base (v : FaultFlag) : (s.setFault v).base = s.base := rfl
@[simp] theorem State.setFault_maskRows (v : FaultFlag) : (s.setFault v).maskRows = s.maskRows := rfl
@[simp] theorem State.setFault_fault (v : FaultFlag) : (s.setFault v).fault = v := rfl
@[simp] theorem State.setFault_inbox (v : FaultFlag) : (s.setFault v).inbox = s.inbox := rfl
@[simp] theorem State.setFault_replies (v : FaultFlag) : (s.setFault v).replies = s.replies := rfl

/-! ## `setMaskRows` -/

@[simp] theorem State.setMaskRows_bufCap (rows : List ByteString) : (s.setMaskRows rows).bufCap = s.bufCap := rfl
@[simp] theorem State.setMaskRows_configured (rows : List ByteString) : (s.setMaskRows rows).configured = s.configured := rfl
@[simp] theorem State.setMaskRows_cfg (rows : List ByteString) : (s.setMaskRows rows).cfg = s.cfg := rfl
@[simp] theorem State.setMaskRows_buf (rows : List ByteString) : (s.setMaskRows rows).buf = s.buf := rfl
@[simp] theorem State.setMaskRows_sync (rows : List ByteString) : (s.setMaskRows rows).sync = s.sync := rfl
@[simp] theorem State.setMaskRows_base (rows : List ByteString) : (s.setMaskRows rows).base = s.base := rfl
@[simp] theorem State.setMaskRows_maskRows (rows : List ByteString) : (s.setMaskRows rows).maskRows = rows := rfl
@[simp] theorem State.setMaskRows_fault (rows : List ByteString) : (s.setMaskRows rows).fault = s.fault := rfl
@[simp] theorem State.setMaskRows_inbox (rows : List ByteString) : (s.setMaskRows rows).inbox = s.inbox := rfl
@[simp] theorem State.setMaskRows_replies (rows : List ByteString) : (s.setMaskRows rows).replies = s.replies := rfl

/-! ## `load` -/

@[simp] theorem State.load_bufCap (c : Cfg) : (s.load c).bufCap = s.bufCap := rfl
@[simp] theorem State.load_configured (c : Cfg) : (s.load c).configured = true := rfl
@[simp] theorem State.load_cfg (c : Cfg) : (s.load c).cfg = c := rfl
@[simp] theorem State.load_buf (c : Cfg) : (s.load c).buf = [] := rfl
@[simp] theorem State.load_sync (c : Cfg) : (s.load c).sync = .seekingStart := rfl
@[simp] theorem State.load_base (c : Cfg) : (s.load c).base = 0 := rfl
@[simp] theorem State.load_maskRows (c : Cfg) : (s.load c).maskRows = [] := rfl
@[simp] theorem State.load_fault (c : Cfg) : (s.load c).fault = .noFault := rfl
@[simp] theorem State.load_inbox (c : Cfg) : (s.load c).inbox = s.inbox := rfl
@[simp] theorem State.load_replies (c : Cfg) : (s.load c).replies = s.replies := rfl

/-! ## `post` -/

@[simp] theorem State.post_bufCap (r : Reply) : (s.post r).bufCap = s.bufCap := rfl
@[simp] theorem State.post_configured (r : Reply) : (s.post r).configured = s.configured := rfl
@[simp] theorem State.post_cfg (r : Reply) : (s.post r).cfg = s.cfg := rfl
@[simp] theorem State.post_buf (r : Reply) : (s.post r).buf = s.buf := rfl
@[simp] theorem State.post_sync (r : Reply) : (s.post r).sync = s.sync := rfl
@[simp] theorem State.post_base (r : Reply) : (s.post r).base = s.base := rfl
@[simp] theorem State.post_maskRows (r : Reply) : (s.post r).maskRows = s.maskRows := rfl
@[simp] theorem State.post_fault (r : Reply) : (s.post r).fault = s.fault := rfl
@[simp] theorem State.post_inbox (r : Reply) : (s.post r).inbox = s.inbox := rfl
@[simp] theorem State.post_replies (r : Reply) : (s.post r).replies = s.replies ++ [r] := rfl

/-! ## `withInbox` -/

@[simp] theorem State.withInbox_bufCap (rest : List HostItem) : (s.withInbox rest).bufCap = s.bufCap := rfl
@[simp] theorem State.withInbox_configured (rest : List HostItem) : (s.withInbox rest).configured = s.configured := rfl
@[simp] theorem State.withInbox_cfg (rest : List HostItem) : (s.withInbox rest).cfg = s.cfg := rfl
@[simp] theorem State.withInbox_buf (rest : List HostItem) : (s.withInbox rest).buf = s.buf := rfl
@[simp] theorem State.withInbox_sync (rest : List HostItem) : (s.withInbox rest).sync = s.sync := rfl
@[simp] theorem State.withInbox_base (rest : List HostItem) : (s.withInbox rest).base = s.base := rfl
@[simp] theorem State.withInbox_maskRows (rest : List HostItem) : (s.withInbox rest).maskRows = s.maskRows := rfl
@[simp] theorem State.withInbox_fault (rest : List HostItem) : (s.withInbox rest).fault = s.fault := rfl
@[simp] theorem State.withInbox_inbox (rest : List HostItem) : (s.withInbox rest).inbox = rest := rfl
@[simp] theorem State.withInbox_replies (rest : List HostItem) : (s.withInbox rest).replies = s.replies := rfl

/-! ## What is read off the state after an update -/

@[simp] theorem State.setSync_findEnd (v : Sync) : (s.setSync v).findEnd = s.findEnd := rfl
@[simp] theorem State.post_findEnd (r : Reply) : (s.post r).findEnd = s.findEnd := rfl
@[simp] theorem State.post_findStart (r : Reply) : (s.post r).findStart = s.findStart := rfl
@[simp] theorem State.post_byteAt (r : Reply) (n : Nat) : (s.post r).byteAt n = s.byteAt n := rfl
@[simp] theorem State.post_streamEnd (r : Reply) : (s.post r).streamEnd = s.streamEnd := rfl
@[simp] theorem State.setSync_byteAt (v : Sync) (n : Nat) : (s.setSync v).byteAt n = s.byteAt n := rfl
@[simp] theorem State.setSync_streamEnd (v : Sync) : (s.setSync v).streamEnd = s.streamEnd := rfl
@[simp] theorem State.setFault_byteAt (v : FaultFlag) (n : Nat) : (s.setFault v).byteAt n = s.byteAt n := rfl
@[simp] theorem State.setFault_streamEnd (v : FaultFlag) : (s.setFault v).streamEnd = s.streamEnd := rfl
@[simp] theorem State.setMaskRows_byteAt (rows : List ByteString) (n : Nat) :
    (s.setMaskRows rows).byteAt n = s.byteAt n := rfl
@[simp] theorem State.setMaskRows_streamEnd (rows : List ByteString) :
    (s.setMaskRows rows).streamEnd = s.streamEnd := rfl

end Sys2Proof.Machine
end

