-- ==== Sys2Proof/Laws/Ops.lean ====
section
/-! SUPPORT. What the fault gate, the answers and the buffer operations can do; every operation on the
ByteBuffer keeps `Memory.wf`. -/

namespace Sys2Proof.Machine

variable {s t : State}

/-! ## The gate -/

@[simp] theorem gate_noFault (h : s.fault = .noFault) (e : Effect) : gate s e = e := by
  simp [gate, h]

@[simp] theorem gate_bufOverflow (h : s.fault = .bufOverflow) (e : Effect) : gate s e = (s, .fault) := by
  simp [gate, h]

/-- Everything the gate can do (40_synchronizer.md R100). -/
theorem gate_cases (s : State) (e : Effect) :
    s.fault = .noFault ∧ gate s e = e ∨ s.fault = .bufOverflow ∧ gate s e = (s, .fault) := by
  cases h : s.fault
  · exact .inl ⟨rfl, gate_noFault h e⟩
  · exact .inr ⟨rfl, gate_bufOverflow h e⟩

/-! ## The answers -/

@[simp] theorem answer_configured (h : s.configured = true) (e : Effect) :
    answer s e = .next (e.1.post (.single e.2)) := by simp [answer, answerAlways, h]

@[simp] theorem answerSequence_configured (h : s.configured = true) (e : State × List Result) :
    answerSequence s e = .next (e.1.post (.sequence e.2)) := by simp [answerSequence, h]

/-- Everything `answer` can do. -/
theorem answer_eq_next (e : Effect) :
    answer s e = .next t ↔ s.configured = true ∧ t = e.1.post (.single e.2) := by
  cases h : s.configured <;> simp [answer, answerAlways, h, eq_comm]

/-- Everything `answerSequence` can do. -/
theorem answerSequence_eq_next (e : State × List Result) :
    answerSequence s e = .next t ↔ s.configured = true ∧ t = e.1.post (.sequence e.2) := by
  cases h : s.configured <;> simp [answerSequence, h, eq_comm]

/-! ## The buffer -/

/-- A full buffer is one of finite capacity that holds exactly that many bytes (40_synchronizer.md R101). -/
theorem bufFull_iff : s.bufFull = true ↔ s.bufCap = some s.buf.length := by simp [State.bufFull]

@[simp] theorem bufFull_of_unbounded (h : s.bufCap = none) : s.bufFull = false := by
  simp [State.bufFull, h]

/-- Everything an append does to the bytes that can be read (20_memory.md R50, R51). -/
theorem appendByte_byteAt (b : Byte) (n : Nat) :
    (s.appendByte b).byteAt n = if n = s.streamEnd then some b else s.byteAt n := by
  unfold State.byteAt State.streamEnd
  simp only [State.appendByte_base, State.appendByte_buf]
  by_cases hb : n < s.base
  · simp [hb]; omega
  · by_cases he : n = s.base + s.buf.length
    · simp [he]
    · simp only [hb, if_false, he]
      rcases Nat.lt_or_ge (n - s.base) s.buf.length with h | h
      · rw [List.getElem?_append_left h]
      · rw [List.getElem?_eq_none (by simpa using by omega), List.getElem?_eq_none h]

/-- Everything a drop does to the bytes that can be read: the dropped ones are gone, the others keep their
stream offset (20_memory.md R51). -/
theorem dropFront_byteAt (k n : Nat) :
    (s.dropFront k).byteAt n = if n < s.base + k then none else s.byteAt n := by
  by_cases h : n < s.base + k
  · simp [State.byteAt, h]
  · have hb : ¬ n < s.base := by omega
    simp only [State.byteAt, State.dropFront_base, State.dropFront_buf, h, hb, if_false,
      List.getElem?_drop]
    congr 1
    omega

theorem appendByte_streamEnd (b : Byte) : (s.appendByte b).streamEnd = s.streamEnd + 1 := by
  simp [State.streamEnd, Nat.add_assoc]

theorem dropFront_streamEnd {k : Nat} (h : k ≤ s.buf.length) :
    (s.dropFront k).streamEnd = s.streamEnd := by
  simp [State.streamEnd]; omega

/-! ## `Memory.wf` is kept -/

/-- The buffer holds no more bytes than the capacity (20_memory.md R62). -/
theorem memory_wf_iff : Memory.wf s = true ↔ ∀ cap, s.bufCap = some cap → s.buf.length ≤ cap := by
  unfold Memory.wf
  cases s.bufCap <;> simp

theorem reset_memory_wf : Memory.wf State.reset = true := rfl

theorem appendByte_memory_wf (h : Memory.wf s = true) (hf : s.bufFull = false) (b : Byte) :
    Memory.wf (s.appendByte b) = true := by
  rw [memory_wf_iff] at h ⊢
  intro cap hc
  have h1 := h cap hc
  have h2 : s.bufCap ≠ some s.buf.length := by simpa [State.bufFull] using hf
  have h3 : s.bufCap = some cap := hc
  have : cap ≠ s.buf.length := fun hh => h2 (by rw [h3, hh])
  simp
  omega

theorem dropFront_memory_wf (h : Memory.wf s = true) (n : Nat) : Memory.wf (s.dropFront n) = true := by
  rw [memory_wf_iff] at h ⊢
  intro cap hc
  have := h cap hc
  simp
  omega

theorem load_memory_wf (c : Cfg) : Memory.wf (s.load c) = true := by
  rw [memory_wf_iff]; simp

@[simp] theorem setSync_memory_wf (v : Sync) : Memory.wf (s.setSync v) = Memory.wf s := rfl
@[simp] theorem setFault_memory_wf (v : FaultFlag) : Memory.wf (s.setFault v) = Memory.wf s := rfl
@[simp] theorem setMaskRows_memory_wf (rows : List ByteString) :
    Memory.wf (s.setMaskRows rows) = Memory.wf s := rfl
@[simp] theorem post_memory_wf (r : Reply) : Memory.wf (s.post r) = Memory.wf s := rfl
@[simp] theorem withInbox_memory_wf (rest : List HostItem) : Memory.wf (s.withInbox rest) = Memory.wf s := rfl

end Sys2Proof.Machine
end

