-- ==== Sys2Proof/Laws/Codec.lean ====
section
/-! SUPPORT. Everything the codec's stages and the mask accumulator can do, said once
(spec/41_codec_rgb565.md R121, R122, spec/42_codec_mask.md R140 to R142). -/

namespace Sys2Proof.Machine

variable {s : State}

/-! ## RGB565 -/

/-- Everything stage 1 can do (41_codec_rgb565.md R121). -/
theorem reconcile_cases (policy : ShortPolicy) (payload : ByteString) (size : Nat) :
    size < payload.length ∧ reconcile policy payload size = .ok (payload.take size, true) ∨
    payload.length < size ∧ policy = .reject ∧
      reconcile policy payload size = .error (.sizeMismatch false) ∨
    payload.length < size ∧ policy = .pad ∧ reconcile policy payload size =
      .ok (payload ++ List.replicate (size - payload.length) 0, false) ∨
    payload.length = size ∧ reconcile policy payload size = .ok (payload, false) := by
  unfold reconcile
  rcases Nat.lt_trichotomy size payload.length with h | h | h
  · exact .inl ⟨h, by rw [if_pos h]⟩
  · exact .inr (.inr (.inr ⟨h.symm, by rw [if_neg (by omega), if_neg (by omega)]⟩))
  · cases policy
    · exact .inr (.inl ⟨h, rfl, by rw [if_neg (by omega), if_pos h]⟩)
    · exact .inr (.inr (.inl ⟨h, rfl, by rw [if_neg (by omega), if_pos h]⟩))

/-- What survives stage 1 has exactly the expected size (41_codec_rgb565.md R121). -/
theorem reconcile_length {policy : ShortPolicy} {payload p : ByteString} {size : Nat} {t : Bool}
    (h : reconcile policy payload size = .ok (p, t)) : p.length = size := by
  rcases reconcile_cases policy payload size with ⟨hl, he⟩ | ⟨-, -, he⟩ | ⟨hl, -, he⟩ | ⟨hl, he⟩ <;>
    rw [he] at h
  · simp only [Except.ok.injEq, Prod.mk.injEq] at h; obtain ⟨rfl, -⟩ := h; simp; omega
  · cases h
  · simp only [Except.ok.injEq, Prod.mk.injEq] at h; obtain ⟨rfl, -⟩ := h; simp; omega
  · simp only [Except.ok.injEq, Prod.mk.injEq] at h; obtain ⟨rfl, -⟩ := h; exact hl

/-- Everything stage 2 can do (41_codec_rgb565.md R122). -/
theorem checkCells_cases (c : Cfg) (p : ByteString) (t : Bool) :
    p.length % 2 = 1 ∧ checkCells c p t = .error (.malformedPayload t) ∨
    p.length % 2 = 0 ∧ p.length ≠ c.width * c.height * 2 ∧ checkCells c p t = .error (.sizeMismatch t) ∨
    p.length = c.width * c.height * 2 ∧ checkCells c p t = .ok () := by
  unfold checkCells
  by_cases h : p.length % 2 = 1
  · exact .inl ⟨h, if_pos h⟩
  · by_cases h2 : p.length = c.width * c.height * 2
    · exact .inr (.inr ⟨h2, by rw [if_neg h, if_neg (by simpa using h2)]⟩)
    · exact .inr (.inl ⟨by omega, h2, by rw [if_neg h, if_pos h2]⟩)

@[simp] theorem convertCells_nil (o : ByteOrder) : convertCells o [] = [] := rfl

@[simp] theorem convertCells_cons_cons (o : ByteOrder) (p0 p1 : Byte) (rest : ByteString) :
    convertCells o (p0 :: p1 :: rest) = pixelOfCell (cellValue o p0 p1) ++ convertCells o rest := rfl

@[simp] theorem pixelOfCell_length (v : BitVec 16) : (pixelOfCell v).length = 3 := rfl

/-! ## Mask text -/

/-- A line is valid exactly when its length is WIDTH and every byte is `'0'` or `'1'`
(42_codec_mask.md R140). -/
theorem lineValid_iff {c : Cfg} {line : ByteString} :
    lineValid c line = true ↔ line.length = c.width ∧ ∀ b ∈ line, b = char0 ∨ b = char1 := by
  simp [lineValid]

@[simp] theorem splitLines_nil : splitLines [] = [[]] := rfl

theorem splitLines_ne_nil (p : ByteString) : splitLines p ≠ [] := by
  induction p with
  | nil => simp
  | cons b rest ih =>
    unfold splitLines
    split
    · simp
    · cases h : splitLines rest <;> simp

@[simp] theorem splitLines_newline (rest : ByteString) :
    splitLines (newline :: rest) = [] :: splitLines rest := by simp [splitLines]

theorem splitLines_cons_of_ne {b : Byte} {rest line : ByteString} {more : List ByteString}
    (hb : b ≠ newline) (h : splitLines rest = line :: more) :
    splitLines (b :: rest) = (b :: line) :: more := by simp [splitLines, hb, h]

/-- Everything one step of the accumulation can do (42_codec_mask.md R140). -/
theorem acceptLine_cases (s : State) (line : ByteString) :
    lineValid s.cfg line = false ∧ acceptLine s line = (s, none) ∨
    lineValid s.cfg line = true ∧ s.maskRows.length + 1 = s.cfg.height ∧
      acceptLine s line =
        (s.setMaskRows [], some (maskPixelFrame s.cfg (s.maskRows ++ [rowOfLine line]))) ∨
    lineValid s.cfg line = true ∧ s.maskRows.length + 1 ≠ s.cfg.height ∧
      acceptLine s line = (s.setMaskRows (s.maskRows ++ [rowOfLine line]), none) := by
  unfold acceptLine
  cases hv : lineValid s.cfg line
  · exact .inl ⟨rfl, by simp⟩
  · by_cases hh : s.maskRows.length + 1 = s.cfg.height
    · exact .inr (.inl ⟨rfl, hh, by simp [hh]⟩)
    · exact .inr (.inr ⟨rfl, hh, by simp [hh]⟩)

@[simp] theorem acceptLines_nil (s : State) : acceptLines s [] = (s, []) := rfl

@[simp] theorem acceptLines_cons (s : State) (line : ByteString) (rest : List ByteString) :
    acceptLines s (line :: rest) =
      ((acceptLines (acceptLine s line).1 rest).1,
       (acceptLine s line).2.toList ++ (acceptLines (acceptLine s line).1 rest).2) := rfl

/-- An accumulation step writes `mask_rows` and nothing else (42_codec_mask.md R140). -/
theorem acceptLine_writes (s : State) (line : ByteString) :
    ∃ rows, (acceptLine s line).1 = s.setMaskRows rows := by
  rcases acceptLine_cases s line with ⟨-, h⟩ | ⟨-, -, h⟩ | ⟨-, -, h⟩ <;> rw [h]
  · exact ⟨s.maskRows, rfl⟩
  · exact ⟨_, rfl⟩
  · exact ⟨_, rfl⟩

/-- So does the accumulation of any number of lines (42_codec_mask.md R141). -/
theorem acceptLines_writes (s : State) (ls : List ByteString) :
    ∃ rows, (acceptLines s ls).1 = s.setMaskRows rows := by
  induction ls generalizing s with
  | nil => exact ⟨s.maskRows, rfl⟩
  | cons l rest ih =>
    obtain ⟨r1, h1⟩ := acceptLine_writes s l
    obtain ⟨r2, h2⟩ := ih (acceptLine s l).1
    exact ⟨r2, by rw [acceptLines_cons]; simp only [h2]; rw [h1]; rfl⟩

end Sys2Proof.Machine
end

