-- ==== Sys2Proof/Laws/Encoding.lean ====
section
/-! SUPPORT. What the well-formedness checks say as propositions, and that markers and cells survive their
encoding (spec/10_state.md R27, R28, spec/30_encoding.md R71, R75, R76, R86). -/

namespace Sys2Proof

theorem operandFits_iff {bytes : ByteString} : operandFits bytes = true ↔ bytes.length < sizeLimit := by
  simp [operandFits]

theorem encodable_iff {c : Cfg} :
    c.encodable = true ↔ c.width < 65536 ∧ c.height < 65536 ∧ c.bpp < 256 := by
  simp [Cfg.encodable, and_assoc]

/-- A configuration is well-formed exactly as 10_state.md R28 says. -/
theorem Machine.cfgWellFormed_iff {c : Cfg} :
    Machine.cfgWellFormed c = true ↔
      (1 ≤ c.width ∧ c.width ≤ 65535) ∧ (1 ≤ c.height ∧ c.height ≤ 65535) ∧
      (1 ≤ c.bpp ∧ c.bpp ≤ 255) ∧ c.width * c.height * c.bpp < sizeLimit ∧
      c.width * c.height * 3 < sizeLimit := by
  simp [Machine.cfgWellFormed, and_assoc]

theorem withByteString_fits {bytes : ByteString} (h : operandFits bytes = true) (i : Instr) :
    withByteString bytes i = .ok i := by simp [withByteString, h]

theorem markerOfWord_wordOfMarker (m : Marker) : markerOfWord (wordOfMarker m) = m := by
  obtain ⟨b0, b1, b2, b3⟩ := m
  simp only [markerOfWord, wordOfMarker, Marker.mk.injEq]
  refine ⟨?_, ?_, ?_, ?_⟩ <;> ext i hi <;> simp <;> grind

@[simp] theorem cellRed_cellOfChannels (r5 : BitVec 5) (g6 : BitVec 6) (b5 : BitVec 5) :
    cellRed (cellOfChannels r5 g6 b5) = r5 := by
  ext i hi; simp [cellRed, cellOfChannels]; grind

@[simp] theorem cellGreen_cellOfChannels (r5 : BitVec 5) (g6 : BitVec 6) (b5 : BitVec 5) :
    cellGreen (cellOfChannels r5 g6 b5) = g6 := by
  ext i hi; simp [cellGreen, cellOfChannels]; grind

@[simp] theorem cellBlue_cellOfChannels (r5 : BitVec 5) (g6 : BitVec 6) (b5 : BitVec 5) :
    cellBlue (cellOfChannels r5 g6 b5) = b5 := by
  ext i hi; simp [cellBlue, cellOfChannels]; grind

/-- A 16-bit value is its high byte followed by its low byte. -/
theorem highByte_append_lowByte (v : BitVec 16) :
    (v.extractLsb' 8 8 ++ v.extractLsb' 0 8 : BitVec 16) = v := by
  ext i hi; simp; grind

/-- A cell read in the byte order it was sent in is the cell that was sent (30_encoding.md R76). -/
theorem cellBytes_value (order : ByteOrder) (v : BitVec 16) :
    ∃ p0 p1, cellBytes order v = [p0, p1] ∧ cellValue order p0 p1 = v := by
  cases order
  · exact ⟨_, _, rfl, highByte_append_lowByte v⟩
  · exact ⟨_, _, rfl, highByte_append_lowByte v⟩

end Sys2Proof
end

