-- ==== Sys2Proof/Laws/Find.lean ====
section
/-! SUPPORT. `find` is the earliest occurrence (spec/00_scope.md R15), and what appending or dropping bytes
does to it. An occurrence of `m` at index `i` of `s` is written `m <+: s.drop i`. -/

namespace Sys2Proof.Machine

variable {m s x : ByteString} {i j : Nat}

theorem find_nil (m : ByteString) : find m [] = if m = [] then some 0 else none := by
  cases m <;> simp [find]

theorem find_cons (m : ByteString) (b : Byte) (s : ByteString) :
    find m (b :: s) = if m <+: b :: s then some 0 else (find m s).map (· + 1) := by
  simp [find]

/-- Everything `find` can answer when it finds: an occurrence, and none before it. -/
theorem find_eq_some_iff :
    find m s = some i ↔ i ≤ s.length ∧ m <+: s.drop i ∧ ∀ j < i, ¬ m <+: s.drop j := by
  induction s generalizing i with
  | nil =>
    rw [find_nil]
    constructor
    · intro h
      split at h
      · cases h; simp_all
      · cases h
    · rintro ⟨hi, hm, -⟩
      simp_all
  | cons b s ih =>
    rw [find_cons]
    by_cases hp : m <+: b :: s
    · simp only [hp, if_true, Option.some.injEq]
      constructor
      · rintro rfl; exact ⟨by simp, by simpa using hp, by simp⟩
      · rintro ⟨-, -, hj⟩
        by_contra hne
        exact hj 0 (by omega) (by simpa using hp)
    · simp only [hp, if_false, Option.map_eq_some_iff]
      constructor
      · rintro ⟨k, hk, rfl⟩
        obtain ⟨h1, h2, h3⟩ := ih.mp hk
        refine ⟨by simpa using h1, by simpa using h2, ?_⟩
        intro j hj
        cases j with
        | zero => simpa using hp
        | succ j => simpa using h3 j (by omega)
      · rintro ⟨h1, h2, h3⟩
        cases i with
        | zero => exact absurd (by simpa using h2) hp
        | succ k =>
          refine ⟨k, ih.mpr ⟨by simpa using h1, by simpa using h2, ?_⟩, rfl⟩
          intro j hj
          simpa using h3 (j + 1) (by omega)

/-- Everything `find` can answer when it does not: no occurrence anywhere. -/
theorem find_eq_none_iff : find m s = none ↔ ∀ j ≤ s.length, ¬ m <+: s.drop j := by
  induction s with
  | nil => rw [find_nil]; simp
  | cons b s ih =>
    rw [find_cons]
    by_cases hp : m <+: b :: s
    · simp only [hp, if_true, reduceCtorEq, false_iff, not_forall, not_not]
      exact ⟨0, by simp, by simpa using hp⟩
    · simp only [hp, if_false, Option.map_eq_none_iff, ih]
      constructor
      · intro h j hj
        cases j with
        | zero => simpa using hp
        | succ j => simpa using h j (by simpa using hj)
      · intro h j hj
        simpa using h (j + 1) (by simpa using hj)

/-- An occurrence lies wholly inside the string (20_memory.md R51). -/
theorem find_add_length_le (h : find m s = some i) : i + m.length ≤ s.length := by
  obtain ⟨hi, hm, -⟩ := find_eq_some_iff.mp h
  have := hm.length_le
  rw [List.length_drop] at this
  omega

/-- An occurrence that ends inside `s` is one of `s ++ x`, and conversely. -/
theorem prefix_drop_append_iff (h : j + m.length ≤ s.length) :
    m <+: (s ++ x).drop j ↔ m <+: s.drop j := by
  rw [List.drop_append_of_le_length (by omega)]
  constructor
  · intro hp
    exact List.prefix_of_prefix_length_le hp (List.prefix_append _ _) (by rw [List.length_drop]; omega)
  · intro hp
    exact hp.trans (List.prefix_append _ _)

/-- Appending bytes leaves the earliest occurrence where it is (40_synchronizer.md R110). -/
theorem find_append_of_some (h : find m s = some i) (x : ByteString) : find m (s ++ x) = some i := by
  have hl := find_add_length_le h
  obtain ⟨hi, hm, hj⟩ := find_eq_some_iff.mp h
  refine find_eq_some_iff.mpr ⟨by rw [List.length_append]; omega,
    (prefix_drop_append_iff hl).mpr hm, fun j hji hp => ?_⟩
  exact hj j hji ((prefix_drop_append_iff (by omega)).mp hp)

/-- An occurrence in `s ++ x` that ends inside `s` is the earliest one of `s`. -/
theorem find_of_append (h : find m (s ++ x) = some i) (hl : i + m.length ≤ s.length) :
    find m s = some i := by
  obtain ⟨hi, hm, hj⟩ := find_eq_some_iff.mp h
  refine find_eq_some_iff.mpr ⟨by omega, (prefix_drop_append_iff hl).mp hm, fun j hji hp => ?_⟩
  exact hj j hji ((prefix_drop_append_iff (by omega)).mpr hp)

end Sys2Proof.Machine
end

