-- ==== Sys2Proof/Laws/Occurrence.lean ====
section
/-! SUPPORT. `find` in the terms of the claims: it answers the index `EarliestAt`, and `none` where the pattern
is `Absent` (spec/00_scope.md R15). -/

namespace Sys2Proof.Machine

variable {m s x : ByteString} {i j : Nat}

theorem occursAt_iff : OccursAt m s i ↔ i ≤ s.length ∧ m <+: s.drop i := by
  rw [List.prefix_iff_eq_take]
  constructor
  · rintro ⟨hl, h⟩
    exact ⟨by omega, h.symm⟩
  · rintro ⟨hl, h⟩
    refine ⟨?_, h.symm⟩
    have := congrArg List.length h
    rw [List.length_take, List.length_drop] at this
    omega

theorem find_eq_some_iff_earliestAt : find m s = some i ↔ EarliestAt m s i := by
  rw [find_eq_some_iff]
  constructor
  · rintro ⟨hi, hm, hj⟩
    exact ⟨occursAt_iff.mpr ⟨hi, hm⟩, fun j hji h => hj j hji (occursAt_iff.mp h).2⟩
  · rintro ⟨ho, hj⟩
    obtain ⟨hi, hm⟩ := occursAt_iff.mp ho
    exact ⟨hi, hm, fun j hji h => hj j hji (occursAt_iff.mpr ⟨by omega, h⟩)⟩

theorem find_eq_none_iff_absent : find m s = none ↔ Absent m s := by
  rw [find_eq_none_iff]
  constructor
  · intro h j hj ho
    exact h j hj (occursAt_iff.mp ho).2
  · intro h j hj hp
    exact h j hj (occursAt_iff.mpr ⟨hj, hp⟩)

/-- An occurrence puts the earliest one no later. -/
theorem find_le_of_occursAt (h : OccursAt m s j) : ∃ i, find m s = some i ∧ i ≤ j := by
  cases hf : find m s with
  | none =>
    have hl := h.1
    exact absurd h (find_eq_none_iff_absent.mp hf j (by omega))
  | some i =>
    refine ⟨i, rfl, ?_⟩
    by_contra hlt
    exact (find_eq_some_iff_earliestAt.mp hf).2 j (by omega) h

end Sys2Proof.Machine
end

