-- ==== Sys2Proof/Laws/PerInstr.lean ====
section
/-! SUPPORT. The family EncodedForm: the encoder gives every instruction the pattern that its row of
spec/opcode_table.json writes, fields included (spec/30_encoding.md R85, R90, R91). -/

namespace Sys2Proof.Laws.EncodedForm

/-- A row's pattern: a command code, the empty encoding of a PSEUDO row, or a wire word of `nbits` bits. -/
inductive Pattern where
  | command (code : Nat)
  | pseudo
  | wire (nbits : Nat) (word : Nat)
  deriving DecidableEq, Repr

/-- A byte string as a number, the first byte on the wire most significant (30_encoding.md R91). -/
def wireWord (bytes : ByteString) : Nat := bytes.foldl (fun acc b => acc * 256 + b.toNat) 0

/-- The pattern an item of the inbox shows. -/
def patternOf : HostItem → Pattern
  | .command c => .command c.op.toNat
  | .token _ bytes => .wire (8 * bytes.length) (wireWord bytes)
  | .script _ => .pseudo

/-- The pattern of the instruction's row in the opcode table, its fields at their places. -/
def rowPattern : Instr → Pattern
  | .reset _ => .command 0x0
  | .feed _ => .command 0x1
  | .tryExtract => .command 0x2
  | .decodeRgb565 _ _ => .command 0x3
  | .decodeMask _ => .command 0x4
  | .maskRow _ => .command 0x5
  | .status => .command 0x6
  | .reserved7 => .command 0x7
  | .reserved8to15 low => .command (0x8 + low.toNat)
  | .feedn _ => .pseudo
  | .drain => .pseudo
  | .pipe => .pseudo
  | .run _ => .pseudo
  | .wireStart => .wire 32 0xAA55AA55
  | .wireEnd => .wire 32 0x55AA55AA
  | .wireCellBig r5 g6 b5 => .wire 16 (r5.toNat * 2 ^ 11 + g6.toNat * 2 ^ 5 + b5.toNat)
  | .wireCellLittle r5 g6 b5 =>
    .wire 16 (g6.toNat % 8 * 2 ^ 13 + b5.toNat * 2 ^ 8 + r5.toNat * 2 ^ 3 + g6.toNat / 8)
  | .wireMaskChar0 => .wire 8 0x30
  | .wireMaskChar1 => .wire 8 0x31
  | .wireMaskNewline => .wire 8 0x0A

/-- The encoder writes the pattern of the instruction's row. -/
def Statement (i : Instr) : Prop := patternOf (encode i) = rowPattern i

/-- A cell's channels as digits of its 16-bit value (30_encoding.md R75). -/
theorem cellOfChannels_toNat (r5 : BitVec 5) (g6 : BitVec 6) (b5 : BitVec 5) :
    (cellOfChannels r5 g6 b5).toNat = r5.toNat * 2 ^ 11 + g6.toNat * 2 ^ 5 + b5.toNat := by
  have hg := g6.isLt
  have hb := b5.isLt
  have h1 : (g6 ++ b5).toNat = g6.toNat * 2 ^ 5 + b5.toNat := by
    rw [BitVec.toNat_append, ← Nat.shiftLeft_add_eq_or_of_lt hb, Nat.shiftLeft_eq]
  rw [cellOfChannels, BitVec.toNat_append, ← Nat.shiftLeft_add_eq_or_of_lt (g6 ++ b5).isLt,
    Nat.shiftLeft_eq, h1]
  omega

/-- The high and the low byte of a 16-bit value. -/
theorem bytes_toNat (v : BitVec 16) :
    (v.extractLsb' 8 8).toNat = v.toNat / 2 ^ 8 ∧ (v.extractLsb' 0 8).toNat = v.toNat % 2 ^ 8 := by
  have := v.isLt
  constructor
  · rw [BitVec.extractLsb'_toNat, Nat.shiftRight_eq_div_pow]; omega
  · rw [BitVec.extractLsb'_toNat, Nat.shiftRight_zero]

theorem reset (c : Cfg) : Statement (.reset c) := rfl
theorem feed (b : Byte) : Statement (.feed b) := rfl
theorem tryExtract : Statement .tryExtract := rfl
theorem decodeRgb565 (payload : ByteString) (expectedSize : Nat) :
    Statement (.decodeRgb565 payload expectedSize) := rfl
theorem decodeMask (payload : ByteString) : Statement (.decodeMask payload) := rfl
theorem maskRow (line : ByteString) : Statement (.maskRow line) := rfl
theorem status : Statement .status := rfl
theorem reserved7 : Statement .reserved7 := rfl

theorem reserved8to15 (low : BitVec 3) : Statement (.reserved8to15 low) := by
  have hl := low.isLt
  show Pattern.command (1#1 ++ low : BitVec 4).toNat = .command (0x8 + low.toNat)
  rw [BitVec.toNat_append, ← Nat.shiftLeft_add_eq_or_of_lt hl]
  rfl

theorem feedn (chunk : ByteString) : Statement (.feedn chunk) := rfl
theorem drain : Statement .drain := rfl
theorem pipe : Statement .pipe := rfl
theorem run (reads : List SourceRead) : Statement (.run reads) := rfl
theorem wireStart : Statement .wireStart := rfl
theorem wireEnd : Statement .wireEnd := rfl

theorem wireCellBig (r5 : BitVec 5) (g6 : BitVec 6) (b5 : BitVec 5) :
    Statement (.wireCellBig r5 g6 b5) := by
  obtain ⟨h1, h2⟩ := bytes_toNat (cellOfChannels r5 g6 b5)
  have h3 := cellOfChannels_toNat r5 g6 b5
  simp only [Statement, encode, patternOf, rowPattern, cellBytes, wireWord, List.foldl_cons,
    List.foldl_nil, h1, h2, h3, Pattern.wire.injEq]
  refine ⟨rfl, ?_⟩
  omega

theorem wireCellLittle (r5 : BitVec 5) (g6 : BitVec 6) (b5 : BitVec 5) :
    Statement (.wireCellLittle r5 g6 b5) := by
  obtain ⟨h1, h2⟩ := bytes_toNat (cellOfChannels r5 g6 b5)
  have h3 := cellOfChannels_toNat r5 g6 b5
  have hr := r5.isLt
  have hg := g6.isLt
  have hb := b5.isLt
  simp only [Statement, encode, patternOf, rowPattern, cellBytes, wireWord, List.foldl_cons,
    List.foldl_nil, h1, h2, h3, Pattern.wire.injEq]
  refine ⟨rfl, ?_⟩
  omega

theorem wireMaskChar0 : Statement .wireMaskChar0 := rfl
theorem wireMaskChar1 : Statement .wireMaskChar1 := rfl
theorem wireMaskNewline : Statement .wireMaskNewline := rfl

end Sys2Proof.Laws.EncodedForm
end

