-- ==== Sys2Proof/Laws/Synchronizer.lean ====
section
/-! SUPPORT. Everything FEED and TRY_EXTRACT can do, said once (spec/40_synchronizer.md R101, R103). -/

namespace Sys2Proof.Machine

variable {s t : State} {r : Result}

@[simp] theorem markerBytes_length (m : Marker) : (markerBytes m).length = markerLength := rfl

/-- The bytes a found END marker takes off the buffer are there. -/
theorem findEnd_le {e : Nat} (h : s.findEnd = some e) : e + markerLength ≤ s.buf.length :=
  find_add_length_le h

/-- The bytes a found START marker takes off the buffer are there. -/
theorem findStart_le {i : Nat} (h : s.findStart = some i) : i + markerLength ≤ s.buf.length :=
  find_add_length_le h

/-- Everything FEED can do: refuse in a faulted block, overflow a full buffer, or append. -/
theorem feedOp_cases (b : Byte) (s : State) :
    s.fault = .bufOverflow ∧ feedOp b s = (s, .fault) ∨
    s.fault = .noFault ∧ s.bufFull = true ∧ feedOp b s = (s.setFault .bufOverflow, .fault) ∨
    s.fault = .noFault ∧ s.bufFull = false ∧ feedOp b s = (s.appendByte b, .ok .nothing) := by
  cases hf : s.fault
  · cases hb : s.bufFull
    · exact .inr (.inr ⟨rfl, rfl, by simp [feedOp, hf, hb]⟩)
    · exact .inr (.inl ⟨rfl, rfl, by simp [feedOp, hf, hb]⟩)
  · exact .inl ⟨rfl, by simp [feedOp, hf]⟩

/-- Everything the END search can do: wait with nothing dropped, or close the frame. -/
theorem closeFrame_cases (s : State) :
    s.findEnd = none ∧ closeFrame s = (s, .none) ∨
    ∃ e, s.findEnd = some e ∧
      closeFrame s = ((s.dropFront (e + markerLength)).setSync .seekingStart,
        .ok (.rawFrame ⟨s.buf.take e, e, s.base, s.base + e⟩)) := by
  unfold closeFrame
  cases h : s.findEnd with
  | none => exact .inl ⟨rfl, rfl⟩
  | some e => exact .inr ⟨e, rfl, rfl⟩

/-- Everything the ordering test can answer. -/
theorem strayEnd_eq_some_iff {i e : Nat} : s.strayEnd i = some e ↔ s.findEnd = some e ∧ e < i := by
  unfold State.strayEnd
  cases s.findEnd with
  | none => simp
  | some k => by_cases hk : k < i <;> simp [hk] <;> omega

theorem strayEnd_eq_none_iff {i : Nat} : s.strayEnd i = none ↔ ∀ e, s.findEnd = some e → i ≤ e := by
  unfold State.strayEnd
  cases s.findEnd with
  | none => simp
  | some k =>
    by_cases hk : k < i
    · simp [hk]
    · simp [hk]; omega

/-- Everything TRY_EXTRACT can do before the gate, one case for each arm of its pseudocode. -/
theorem extract_cases (s : State) :
    s.sync = .seekingStart ∧ s.findStart = none ∧ extract s = (s, .none) ∨
    (∃ i e, s.sync = .seekingStart ∧ s.findStart = some i ∧ s.strayEnd i = some e ∧
      extract s = (s.dropFront (e + markerLength), .malformedOrdering)) ∨
    (∃ i, s.sync = .seekingStart ∧ s.findStart = some i ∧ s.strayEnd i = none ∧
      extract s = closeFrame (s.openFrame i)) ∨
    s.sync = .seekingEnd ∧ extract s = closeFrame s := by
  unfold extract
  cases hs : s.sync with
  | seekingEnd => exact .inr (.inr (.inr ⟨rfl, rfl⟩))
  | seekingStart =>
    cases hi : s.findStart with
    | none => exact .inl ⟨rfl, rfl, rfl⟩
    | some i =>
      cases he : s.strayEnd i with
      | some e => exact .inr (.inl ⟨i, e, rfl, rfl, he, by simp [he]⟩)
      | none => exact .inr (.inr (.inl ⟨i, rfl, rfl, he, by simp [he]⟩))

/-- What a TRY_EXTRACT does to the state is a drop of a retained prefix and a write of `sync`. -/
theorem closeFrame_drops (s : State) :
    ∃ n v, n ≤ s.buf.length ∧ (closeFrame s).1 = (s.dropFront n).setSync v := by
  rcases closeFrame_cases s with ⟨-, h⟩ | ⟨e, he, h⟩
  · exact ⟨0, s.sync, by omega, by rw [h]; simp [State.dropFront, State.setSync]⟩
  · exact ⟨_, _, findEnd_le he, by rw [h]⟩

theorem dropFront_setSync_dropFront_setSync (s : State) (n k : Nat) (v w : Sync) :
    (((s.dropFront n).setSync v).dropFront k).setSync w = (s.dropFront (n + k)).setSync w := by
  simp [State.dropFront, State.setSync, Nat.add_assoc]

theorem tryExtractOp_drops (s : State) :
    ∃ n v, n ≤ s.buf.length ∧ (tryExtractOp s).1 = (s.dropFront n).setSync v := by
  have same : ∃ n v, n ≤ s.buf.length ∧ s = (s.dropFront n).setSync v :=
    ⟨0, s.sync, by omega, by simp [State.dropFront, State.setSync]⟩
  unfold tryExtractOp
  rcases gate_cases s (extract s) with ⟨-, hg⟩ | ⟨-, hg⟩ <;> rw [hg]
  · rcases extract_cases s with ⟨-, -, h⟩ | ⟨i, e, hs, -, he, h⟩ | ⟨i, -, hi, -, h⟩ | ⟨-, h⟩ <;> rw [h]
    · exact same
    · exact ⟨_, s.sync, findEnd_le (strayEnd_eq_some_iff.mp he).1, by
        simp [State.dropFront, State.setSync]⟩
    · obtain ⟨n, v, hn, h2⟩ := closeFrame_drops (s.openFrame i)
      refine ⟨i + markerLength + n, v, ?_, ?_⟩
      · have := findStart_le hi
        simp [State.openFrame] at hn
        omega
      · rw [h2]; exact dropFront_setSync_dropFront_setSync s _ _ _ _
    · exact closeFrame_drops s
  · exact same

end Sys2Proof.Machine
end

