-- ==== Sys2Proof/Laws/Pipeline.lean ====
section
/-! SUPPORT. One unfolding of each pseudo-operation and of `step`, for citing instead of unfolding
(spec/40_synchronizer.md R102, R108, spec/43_system.md R164, R167). -/

namespace Sys2Proof.Machine

variable {s t : State}

@[simp] theorem feednOp_nil (s : State) : feednOp [] s = (s, []) := rfl

/-- Everything the next byte of a FEEDN can do. -/
theorem feednOp_cons_cases (b : Byte) (rest : ByteString) (s : State) :
    (feedOp b s).2 = .fault ∧ feednOp (b :: rest) s = ((feedOp b s).1, [.fault]) ∨
    (feedOp b s).2 ≠ .fault ∧
      feednOp (b :: rest) s =
        ((feednOp rest (feedOp b s).1).1, (feedOp b s).2 :: (feednOp rest (feedOp b s).1).2) := by
  by_cases h : (feedOp b s).2 = .fault
  · exact .inl ⟨h, by simp [feednOp, h]⟩
  · exact .inr ⟨h, by simp [feednOp, h]⟩

@[simp] theorem drainLoop_zero (s : State) : drainLoop 0 s = (s, []) := rfl

/-- Everything the next attempt of a DRAIN can do. -/
theorem drainLoop_succ (fuel : Nat) (s : State) :
    drainLoop (fuel + 1) s =
      if endsDrain (tryExtractOp s).2 then ((tryExtractOp s).1, [])
      else ((drainLoop fuel (tryExtractOp s).1).1,
            (tryExtractOp s).2 :: (drainLoop fuel (tryExtractOp s).1).2) := rfl

/-- Everything PIPE can do. -/
theorem pipeOp_cases (s : State) :
    frameOf (tryExtractOp s).2 = none ∧ pipeOp s = tryExtractOp s ∨
    ∃ f, frameOf (tryExtractOp s).2 = some f ∧
      pipeOp s = decodeFrameOp f.payload (tryExtractOp s).1 := by
  unfold pipeOp
  cases h : frameOf (tryExtractOp s).2 with
  | none => exact .inl ⟨rfl, by simp [h]⟩
  | some f => exact .inr ⟨f, rfl, by simp [h]⟩

@[simp] theorem runOp_nil (s : State) : runOp [] s = (s, []) := rfl

@[simp] theorem runOp_closed (rest : List SourceRead) (s : State) :
    runOp (.closed :: rest) s = (s, [.terminalSourceClosed]) := rfl

theorem runRepeat_succ (fuel : Nat) (s : State) :
    runRepeat (fuel + 1) s =
      match (runTurn s).2.2 with
      | .left => ((runTurn s).1, (runTurn s).2.1, false)
      | .failed => ((runTurn s).1, (runTurn s).2.1, true)
      | .again =>
        ((runRepeat fuel (runTurn s).1).1, (runTurn s).2.1 ++ (runRepeat fuel (runTurn s).1).2.1,
         (runRepeat fuel (runTurn s).1).2.2) := rfl

theorem runOp_chunk (bytes : ByteString) (rest : List SourceRead) (s : State) :
    runOp (.chunk bytes :: rest) s =
      let fed := (feednOp bytes s).1
      let here := runRepeat fed.drainFuel fed
      if here.2.2 then (here.1, here.2.1)
      else ((runOp rest here.1).1, here.2.1 ++ (runOp rest here.1).2) := rfl

/-- Everything a step can do: nothing is issued, an instruction is performed, or the item is none. -/
theorem step_cases (s : State) :
    s.inbox = [] ∧ step s = .next s ∨
    (∃ item rest i, s.inbox = item :: rest ∧ decode item = .ok i ∧ step s = exec i (s.withInbox rest)) ∨
    ∃ item rest why, s.inbox = item :: rest ∧ decode item = .error why ∧
      step s = .refused (.notAnInstruction why) := by
  unfold step
  cases hi : s.inbox with
  | nil => exact .inl ⟨rfl, rfl⟩
  | cons item rest =>
    cases hd : decode item with
    | ok i => exact .inr (.inl ⟨item, rest, i, rfl, hd, by simp [hd]⟩)
    | error why => exact .inr (.inr ⟨item, rest, why, rfl, hd, by simp [hd]⟩)

end Sys2Proof.Machine
end

