-- ==== Sys2Proof/Tests/Slice0.lean ====
section
/-! SUPPORT. The model's own tests, each a named theorem: the WellFormed smoke test, decoding from words written
out from the spec, small steps whose expected results are vectors of spec/95_test_vectors.md (named in each
comment) or are calculated by hand from the rule named, and a witness for every statement that has hypotheses. -/

namespace Sys2Proof.Tests

open Sys2Proof.Machine

/-! ## Helpers -/

/-- The small test configuration of spec/95_test_vectors.md, `WIDTH = 2`, `HEIGHT = 1`. -/
def smallCfg (order : ByteOrder) (policy : ShortPolicy) : Cfg :=
  { referenceCfg order policy with width := 2, height := 1 }

/-- The mask test configuration of section 4, `WIDTH = 4`, `HEIGHT = 2`. -/
def maskCfg : Cfg := { referenceCfg .bigFirst .reject with width := 4, height := 2, format := .mask }

/-- A block right after RESET of the small test configuration, with these bytes in its buffer. -/
def block (bytes : ByteString) : State :=
  { State.reset with cfg := smallCfg .bigFirst .reject, buf := bytes }

/-- The block in `SEEKING_END`, four bytes into the stream. -/
def openBlock (bytes : ByteString) : State := { block bytes with sync := .seekingEnd, base := 4 }

/-- The block under PAD. -/
def padBlock : State := { block [] with cfg := smallCfg .bigFirst .pad }

/-- The block with a full buffer of capacity 2. -/
def fullBlock : State := { block [0, 0] with bufCap := some 2 }

/-- The faulted block. -/
def faultedBlock : State := { fullBlock with fault := .bufOverflow }

/-- A block right after RESET of the mask test configuration, with these rows accepted. -/
def maskBlock (rows : List ByteString) : State := { State.reset with cfg := maskCfg, maskRows := rows }

/-- The state after an instruction, where there is one. -/
def after (i : Instr) (s : State) : Option State :=
  match exec i s with
  | .next t => some t
  | .fault _ => none
  | .refused _ => none

/-- The replies after an instruction. -/
def repliesOf (i : Instr) (s : State) : Option (List Reply) := (after i s).map State.replies

/-- The buffer, `sync`, `base` and the replies after an instruction. -/
def streamOf (i : Instr) (s : State) : Option (ByteString × Sync × Nat × List Reply) :=
  (after i s).map (fun t => (t.buf, t.sync, t.base, t.replies))

/-- The refusal an instruction ends in, where it does. -/
def refusalOf (i : Instr) (s : State) : Option Refusal :=
  match exec i s with
  | .next _ => none
  | .fault _ => none
  | .refused r => some r

/-- The START marker `AA 55 AA 55`. -/
def start : ByteString := [0xAA, 0x55, 0xAA, 0x55]

/-- The END marker `55 AA 55 AA`. -/
def stop : ByteString := [0x55, 0xAA, 0x55, 0xAA]

/-! ## WellFormed: an ill-formed term for each check -/

theorem test_wellFormed_refuses_wide_configuration :
    (Instr.reset { referenceCfg .bigFirst .reject with width := 65536 }).wellFormed = false := by decide

theorem test_wellFormed_refuses_high_configuration :
    (Instr.reset { referenceCfg .bigFirst .reject with height := 65536 }).wellFormed = false := by decide

theorem test_wellFormed_refuses_large_bpp :
    (Instr.reset { referenceCfg .bigFirst .reject with bpp := 256 }).wellFormed = false := by decide

theorem test_wellFormed_refuses_large_expectedSize :
    (Instr.decodeRgb565 [] 4294967296).wellFormed = false := by decide

theorem test_wellFormed_refuses_long_payload (bytes : ByteString) (h : 4294967296 ≤ bytes.length) :
    (Instr.decodeRgb565 bytes 0).wellFormed = false ∧ (Instr.decodeMask bytes).wellFormed = false ∧
    (Instr.maskRow bytes).wellFormed = false := by
  have : operandFits bytes = false := by simpa [operandFits] using h
  simp [Instr.wellFormed, this]

/-! ## Decoding, from words written out from 30_encoding.md R85, R71, R72, R75, R76, R80 -/

/-- R85 code 0 with the cfg lines of R27: markers `AA 55 AA 55` and `55 AA 55 AA`, 2 x 1, BPP 2,
LITTLE_FIRST (1), PAD (1), MASK (1). -/
theorem test_decode_reset :
    decode (.command ⟨0b0000, ⟨0xAA55AA55, 0x55AA55AA, 2, 1, 2, 1, 1, 1⟩, 0, 0, []⟩) =
      .ok (.reset ⟨⟨0xAA, 0x55, 0xAA, 0x55⟩, ⟨0x55, 0xAA, 0x55, 0xAA⟩, 2, 1, 2, .littleFirst, .pad, .mask⟩) := by
  rfl

theorem test_decode_feed :
    decode (.command { bareCommand 0b0001 with byte := 0x5A }) = .ok (.feed 0x5A) := by rfl

theorem test_decode_tryExtract : decode (.command (bareCommand 0b0010)) = .ok .tryExtract := by rfl

theorem test_decode_decodeRgb565 :
    decode (.command { bareCommand 0b0011 with bytes := [0xF8, 0, 0, 0x1F], size := 4 }) =
      .ok (.decodeRgb565 [0xF8, 0, 0, 0x1F] 4) := by rfl

theorem test_decode_decodeMask :
    decode (.command { bareCommand 0b0100 with bytes := [0x30, 0x0A] }) = .ok (.decodeMask [0x30, 0x0A]) := by
  rfl

theorem test_decode_maskRow :
    decode (.command { bareCommand 0b0101 with bytes := [0x31] }) = .ok (.maskRow [0x31]) := by rfl

theorem test_decode_status : decode (.command (bareCommand 0b0110)) = .ok .status := by rfl

theorem test_decode_reserved7 : decode (.command (bareCommand 0b0111)) = .ok .reserved7 := by rfl

theorem test_decode_reserved8to15 :
    decode (.command (bareCommand 0b1000)) = .ok (.reserved8to15 0) ∧
    decode (.command (bareCommand 0b1111)) = .ok (.reserved8to15 7) := by decide

/-- R90: the pseudo-operations have names and no code. -/
theorem test_decode_pseudo_operations :
    decode (.script (.feedn [1, 2])) = .ok (.feedn [1, 2]) ∧ decode (.script .drain) = .ok .drain ∧
    decode (.script .pipe) = .ok .pipe ∧ decode (.script (.run [.closed])) = .ok (.run [.closed]) := by decide

theorem test_decode_wireStart : decodeTableWord 32 0xAA55AA55 = some .wireStart := by decide

theorem test_decode_wireEnd : decodeTableWord 32 0x55AA55AA = some .wireEnd := by decide

/-- R75: `rrrrrggggggbbbbb` with red 2, green 17, blue 20 (vector V-C10, cell `0x1234`). -/
theorem test_decode_wireCellBig :
    decodeTableWord 16 0b00010_010001_10100 = some (.wireCellBig 2 17 20) := by decide

/-- R76: `gggbbbbbrrrrrggg`, the bytes `12 34` sent low byte first (vector V-C11, cell `0x3412`). -/
theorem test_decode_wireCellLittle :
    decode (.token 1 [0b00010010, 0b00110100]) = .ok (.wireCellLittle 6 32 18) := by decide

theorem test_decode_wireMask :
    decodeTableWord 8 0b00110000 = some .wireMaskChar0 ∧ decodeTableWord 8 0b00110001 = some .wireMaskChar1 ∧
    decodeTableWord 8 0b00001010 = some .wireMaskNewline := by decide

/-- R91: other bytes are no token. -/
theorem test_decode_rejects_other_tokens :
    decode (.token 0 [0x32]) = .error .notAToken ∧ decode (.token 0 []) = .error .notAToken ∧
    decode (.token 0 [0xAA, 0x55, 0xAA, 0x54]) = .error .notAToken := by decide

/-! ## RESET, STATUS, reserved codes -/

/-- Vector V-S15 and 43_system.md R160's example. -/
theorem test_reset_restarts :
    (after (.reset (smallCfg .littleFirst .pad)) (openBlock [1, 2, 3])).map
      (fun t => (t.cfg.byteOrder, t.buf, t.sync, t.base)) = some (.littleFirst, [], .seekingStart, 0) := by
  decide

/-- Vector V-S15: `WIDTH=0` and `65535 * 65535 * 2 >= 2^32`. -/
theorem test_reset_refuses :
    streamOf (.reset { smallCfg .bigFirst .pad with width := 0 }) (openBlock [1]) =
      some ([1], .seekingEnd, 4, [.single .refusedCfg]) ∧
    repliesOf (.reset { smallCfg .bigFirst .pad with width := 65535, height := 65535 }) (block []) =
      some [.single .refusedCfg] := by decide

/-- 43_system.md R161's example: `OK status(SEEKING_END, 1, 4, 0, NONE)`. -/
theorem test_status :
    repliesOf .status (openBlock [1]) = some [.single (.ok (.status ⟨.seekingEnd, 1, 4, 0, .noFault⟩))] := by
  decide

/-- Vector V-S13: STATUS shows the fault. -/
theorem test_status_faulted :
    repliesOf .status faultedBlock =
      some [.single (.ok (.status ⟨.seekingStart, 2, 0, 0, .bufOverflow⟩))] := by decide

/-- Vectors V-S13 and V-S15. -/
theorem test_reserved :
    repliesOf .reserved7 State.powerOn = some [.single .illegalOp] ∧
    repliesOf (.reserved8to15 1) faultedBlock = some [.single .illegalOp] := by decide

/-- 70_reset_and_hazards.md R212. -/
theorem test_neverReset_refuses : refusalOf .status State.powerOn = some .neverReset := by decide

/-! ## FEED and TRY_EXTRACT -/

/-- 40_synchronizer.md R101: the byte goes to the end. -/
theorem test_feed : streamOf (.feed 9) (block [7]) =
    some ([7, 9], .seekingStart, 0, [.single (.ok .nothing)]) := by decide

/-- Vector V-S13: the byte that overflows is lost. -/
theorem test_feed_overflow :
    (after (.feed 9) fullBlock).map (fun t => (t.buf, t.fault, t.replies)) =
      some ([0, 0], .bufOverflow, [.single .fault]) := by decide

/-- Vector V-S4: garbage, then START A END. -/
theorem test_tryExtract_frame :
    streamOf .tryExtract (block ([0x00, 0x11] ++ start ++ [1, 2, 3, 4] ++ stop)) =
      some ([], .seekingStart, 14, [.single (.ok (.rawFrame ⟨[1, 2, 3, 4], 4, 6, 10⟩))]) := by decide

/-- Vector V-S7: END overlaps the START marker and is reported. -/
theorem test_tryExtract_stray_end :
    streamOf .tryExtract (block ([0x55] ++ start ++ [1] ++ stop)) =
      some ([0x55, 1, 0x55, 0xAA, 0x55, 0xAA], .seekingStart, 4, [.single .malformedOrdering]) := by decide

/-! ## DECODE.RGB565 -/

/-- Vector V-C3 and conflict C2: the cell `0x8000` is (132, 0, 0); vectors V-C13, V-C15 and V-C20. -/
theorem test_cells :
    pixelOfCell 0x8000 = [132, 0, 0] ∧ pixelOfCell 0x55AA = [82, 182, 82] ∧
    pixelOfCell 0x7BEF = [123, 125, 123] ∧ pixelOfCell 0x9ABC = [156, 85, 231] := by decide

/-- Vectors V-P2, V-P4, V-P7 and V-P12 (reject, or pad where said). -/
theorem test_decodeRgb565 :
    repliesOf (.decodeRgb565 [0xF8, 0, 0, 0x1F, 0x12, 0x34] 4) (block []) =
      some [.single (.ok (.rgbFrame ⟨2, 1, .rgb888, [0xFF, 0, 0, 0, 0, 0xFF]⟩ true))] ∧
    repliesOf (.decodeRgb565 [0xF8, 0, 0] 4) padBlock =
      some [.single (.ok (.rgbFrame ⟨2, 1, .rgb888, [0xFF, 0, 0, 0, 0, 0]⟩ false))] ∧
    repliesOf (.decodeRgb565 [0xF8, 0, 0, 0x1F] 3) (block []) = some [.single (.malformedPayload true)] ∧
    repliesOf (.decodeRgb565 [0xF8, 0] 3) (block []) = some [.single (.sizeMismatch false)] := by decide

/-- Vector V-P14: the low byte first. -/
theorem test_decodeRgb565_little :
    repliesOf (.decodeRgb565 [0x12, 0x34, 0x12, 0x34] 4) { block [] with cfg := smallCfg .littleFirst .reject } =
      some [.single (.ok (.rgbFrame ⟨2, 1, .rgb888, [0x31, 0x82, 0x94, 0x31, 0x82, 0x94]⟩ false))] := by decide

/-! ## MASK_ROW and DECODE.MASK -/

/-- Vector V-M1: the row that completes the frame. -/
theorem test_maskRow_completes :
    (after (.maskRow [0x31, 0x30, 0x30, 0x31]) (maskBlock [[0, 1, 1, 0]])).map (fun t => (t.maskRows, t.replies)) =
      some ([], [.single (.ok (.maskFrame ⟨4, 2, .binaryMask, [0, 1, 1, 0, 1, 0, 0, 1]⟩))]) := by decide

/-- Vector V-M1: a short row and one with a `'2'`. -/
theorem test_maskRow_drops :
    (after (.maskRow [0x30, 0x31, 0x30]) (maskBlock [])).map State.maskRows = some [] ∧
    (after (.maskRow [0x30, 0x31, 0x32, 0x31]) (maskBlock [])).map State.maskRows = some [] := by decide

/-- As vector V-M5: two rows complete a frame and a third stays accumulated; vector V-M4: `\r` spoils a
line. -/
theorem test_decodeMask :
    (after (.decodeMask [0x30, 0x31, 0x30, 0x31, 0x0A, 0x31, 0x31, 0x31, 0x31, 0x0A, 0x30, 0x30, 0x31, 0x31])
      (maskBlock [])).map (fun t => (t.maskRows, t.replies)) =
      some ([[0, 0, 1, 1]], [.single (.ok (.maskFrames [⟨4, 2, .binaryMask, [0, 1, 0, 1, 1, 1, 1, 1]⟩]))]) ∧
    repliesOf (.decodeMask [0x30, 0x31, 0x30, 0x31, 0x0D, 0x0A]) (maskBlock []) = some [.single .none] := by
  decide

/-! ## Pseudo-operations -/

/-- 40_synchronizer.md R102: FEEDN stops at the first `FAULT`. -/
theorem test_feedn_stops :
    (after (.feedn [1, 2, 3]) { block [] with bufCap := some 1 }).map (fun t => (t.buf, t.replies)) =
      some ([1], [.sequence [.ok .nothing, .fault]]) := by decide

/-- Vector V-S3 with one-byte payloads. -/
theorem test_drain :
    streamOf .drain (block (start ++ [1] ++ stop ++ stop ++ start ++ [2] ++ stop)) =
      some ([], .seekingStart, 22, [.sequence [.ok (.rawFrame ⟨[1], 1, 4, 5⟩), .malformedOrdering,
        .ok (.rawFrame ⟨[2], 1, 17, 18⟩)]]) := by decide

/-- The RGB565 frame of program P1, and 43_system.md R164's `return r`. -/
theorem test_pipe :
    streamOf .pipe (openBlock ([0x07, 0xE0, 0xFF, 0xFF] ++ stop)) =
      some ([], .seekingStart, 12,
        [.single (.ok (.rgbFrame ⟨2, 1, .rgb888, [0, 0xFF, 0, 0xFF, 0xFF, 0xFF]⟩ false))]) ∧
    repliesOf .pipe (block [1]) = some [.single .none] := by decide

/-- Program P2's long frame in two reads: the truncation is reported, then the frame is delivered; a closed
source ends the loop (43_system.md R167, R169). -/
theorem test_run :
    repliesOf (.run [.chunk (start ++ [0x12, 0x34, 0x56]), .chunk ([0x78, 0x9A, 0xBC] ++ stop), .closed])
      padBlock =
      some [.loop [.reportTruncation, .accept ⟨2, 1, .rgb888, [0x10, 0x45, 0xA5, 0x52, 0xCF, 0xC6]⟩,
        .terminalSourceClosed]] := by decide

/-! ## Wire tokens -/

/-- 30_encoding.md R71, R72: the bytes travel in the order written. -/
theorem test_wire_markers :
    (after .wireStart (block [])).map State.buf = some [0xAA, 0x55, 0xAA, 0x55] ∧
    (after .wireEnd (block [])).map State.buf = some [0x55, 0xAA, 0x55, 0xAA] := by decide

/-- 30_encoding.md R76: the cell `0x1234` as `12 34`, and low byte first as `34 12`. -/
theorem test_wire_cells :
    (after (.wireCellBig 2 17 20) (block [])).map State.buf = some [0x12, 0x34] ∧
    (after (.wireCellLittle 2 17 20) (block [])).map State.buf = some [0x34, 0x12] := by decide

/-- 30_encoding.md R80. -/
theorem test_wire_mask :
    (after .wireMaskChar0 (block [])).map State.buf = some [0x30] ∧
    (after .wireMaskChar1 (block [])).map State.buf = some [0x31] ∧
    (after .wireMaskNewline (block [])).map State.buf = some [0x0A] := by decide

/-! ## The step -/

/-- The first word after reset is the instruction that runs. -/
theorem test_step_runs_the_word :
    (match step (State.reset.withFetchWord 16 0x1234) with
     | .next t => some (t.buf, t.inbox)
     | .fault _ => none
     | .refused _ => none) = some ([0x12, 0x34], []) := by decide

/-! ## Witnesses: states and operands that meet all hypotheses of a statement, clause by clause -/

/-- Operands at the ends of their ranges. -/
theorem witness_DecodingAnEncodedInstructionGivesItBack :
    (Instr.reset { referenceCfg .littleFirst .pad with width := 65535, height := 0, bpp := 255 }).wellFormed
      = true ∧
    (Instr.decodeRgb565 [0xFF] 4294967295).wellFormed = true ∧ (Instr.maskRow []).wellFormed = true := by decide

theorem witness_DecodedInstructionsAreWellFormed :
    decode (.command { bareCommand 3 with bytes := [1], size := 4294967295 }) =
      .ok (.decodeRgb565 [1] 4294967295) := by rfl

theorem witness_EveryCommandCodeNamesItsOperation (op : BitVec 4) :
    (bareCommand op).bytes.length < 4294967296 ∧ (bareCommand op).op = op ∧
    8 ≤ (bareCommand 8).op.toNat ∧ 8 ≤ (bareCommand 15).op.toNat := ⟨by show 0 < 4294967296; decide, rfl, by decide, by decide⟩

theorem witness_StepRunsTheDecodedInstruction :
    State.reset.inbox = [] ∧
    ((State.reset.withInbox [.script .drain]).inbox = .script .drain :: [] ∧
      decode (.script .drain) = .ok .drain) ∧
    (State.reset.withInbox [.token 0 []]).inbox = .token 0 [] :: [] ∧
    decode (.token 0 []) = .error .notAToken := by decide

/-- The smallest configuration, one with the largest `BPP`, and ill-formed ones on either side. -/
theorem witness_ResetLoadsTheResetValuesOrRefuses :
    (bareCommand 0).op = 0 ∧
    (∀ c ∈ [{ smallCfg .bigFirst .pad with width := 1, height := 1, bpp := 1 },
        { smallCfg .bigFirst .pad with width := 65535, height := 257, bpp := 255 }],
      1 ≤ c.width ∧ c.width ≤ 65535 ∧ 1 ≤ c.height ∧ c.height ≤ 65535 ∧ 1 ≤ c.bpp ∧ c.bpp ≤ 255 ∧
        c.width * c.height * c.bpp < 2 ^ 32 ∧ c.width * c.height * 3 < 2 ^ 32) ∧
    ∀ c ∈ [{ smallCfg .bigFirst .pad with width := 0 }, { smallCfg .bigFirst .pad with height := 65536 },
        { smallCfg .bigFirst .pad with bpp := 256 },
        { smallCfg .bigFirst .pad with width := 65535, height := 65535 }],
      ¬ (1 ≤ c.width ∧ c.width ≤ 65535 ∧ 1 ≤ c.height ∧ c.height ≤ 65535 ∧ 1 ≤ c.bpp ∧ c.bpp ≤ 255 ∧
        c.width * c.height * c.bpp < 2 ^ 32 ∧ c.width * c.height * 3 < 2 ^ 32) := by decide

/-- Faulted or not. -/
theorem witness_StatusReturnsTheStatusTuple :
    (bareCommand 6).op = 6 ∧ State.reset.configured = true ∧ faultedBlock.configured = true := by decide

theorem witness_NeverResetBlockRefusesOperations :
    State.powerOn.configured = false ∧
    Instr.wireMaskNewline ∈ [Instr.tryExtract, .status, .drain, .pipe, .wireStart, .wireEnd, .wireMaskChar0,
      .wireMaskChar1, .wireMaskNewline] ∧ (∃ b bs, Instr.feedn [1] = .feedn (b :: bs)) ∧
    ∃ bs rest, Instr.run [.chunk []] = .run (.chunk bs :: rest) :=
  ⟨rfl, by decide, ⟨1, [], rfl⟩, [], [], rfl⟩

/-- Unbounded, one byte short of full, full, faulted. -/
theorem witness_FeedAppendsOneByteOrOverflows :
    (bareCommand 1).op = 1 ∧ ((block []).Ready ∧ (block []).bufCap ≠ some (block []).buf.length) ∧
    ({ fullBlock with bufCap := some 3 }.Ready ∧ some 3 ≠ some fullBlock.buf.length) ∧
    (fullBlock.Ready ∧ fullBlock.bufCap = some fullBlock.buf.length) ∧
    faultedBlock.configured = true ∧ faultedBlock.fault = .bufOverflow := by decide

theorem witness_FeedStoresOneByteOfTheStream :
    (∃ t, exec (.feed 9) (block [7]) = .next t ∧ (block [7]).fault = .noFault ∧
      (block [7]).bufCap ≠ some (block [7]).buf.length ∧ (0 : Nat) ≠ (block [7]).streamEnd) ∧
    (∃ t, exec (.feed 9) fullBlock = .next t ∧ fullBlock.bufCap = some fullBlock.buf.length) ∧
    ∃ t, exec (.feed 9) faultedBlock = .next t ∧ faultedBlock.fault = .bufOverflow :=
  ⟨⟨_, rfl, by decide⟩, ⟨_, rfl, by decide⟩, _, rfl, by decide⟩

/-- The chunk that just fits; the one that overflows with room for one byte, and with none. -/
theorem witness_FeednAppendsTheChunkUpToOverflow :
    ({ fullBlock with bufCap := some 4 }.Ready ∧
      ∀ cap, some 4 = some cap → fullBlock.buf.length + [(1 : Byte), 2].length ≤ cap) ∧
    ({ fullBlock with bufCap := some 3 }.Ready ∧ some 3 = some (fullBlock.buf.length + 1) ∧
      1 < [(1 : Byte), 2].length) ∧
    fullBlock.Ready ∧ fullBlock.bufCap = some (fullBlock.buf.length + 0) ∧ 0 < [(1 : Byte)].length :=
  ⟨⟨by decide, fun cap h => by cases h; decide⟩, by decide, by decide⟩

theorem witness_FeednOfTwoPiecesIsFeednOfTheWhole : fullBlock.configured = true := by decide

theorem witness_WireTokensFeedTheirBytes : (block []).Ready ∧ (block []).bufCap = none ∧
    (Instr.wireMaskChar0, [0x30]) ∈ [(Instr.wireMaskChar0, [0x30])] := by decide

/-- Each arm of the pseudocode, the ordering test at its boundary: an END just before and just at START. -/
theorem witness_TryExtractFollowsItsAlgorithm :
    ((bareCommand 2).op = 2 ∧ faultedBlock.configured = true ∧ faultedBlock.fault = .bufOverflow) ∧
    ((block [1]).Ready ∧ (block [1]).sync = .seekingStart ∧ Absent (block [1]).startBytes (block [1]).buf) ∧
    ((block (stop ++ start)).sync = .seekingStart ∧
      EarliestAt (block []).startBytes (stop ++ start) 4 ∧ EarliestAt (block []).endBytes (stop ++ start) 0) ∧
    (EarliestAt (block []).startBytes (start ++ [1]) 0 ∧ (∀ j < 0, ¬ OccursAt (block []).endBytes (start ++ [1]) j) ∧
      Absent (block []).endBytes ((start ++ [1]).drop (0 + 4))) ∧
    (EarliestAt (block []).startBytes (start ++ stop) 0 ∧
      (∀ j < 0, ¬ OccursAt (block []).endBytes (start ++ stop) j) ∧
      EarliestAt (block []).endBytes ((start ++ stop).drop (0 + 4)) 0) ∧
    ((openBlock [1]).Ready ∧ (openBlock [1]).sync = .seekingEnd ∧
      Absent (openBlock [1]).endBytes (openBlock [1]).buf) ∧
    (openBlock (1 :: stop)).sync = .seekingEnd ∧
    EarliestAt (openBlock []).endBytes (openBlock (1 :: stop)).buf 1 :=
  ⟨by decide, by decide, by decide, by decide, by decide, by decide, by decide⟩

/-- A `NONE` in either state of `sync`. -/
theorem witness_TryExtractAfterNoneChangesNothing :
    (∃ t, exec .tryExtract (block [1]) = .next t ∧ t.replies = (block [1]).replies ++ [.single .none] ∧
      t.sync = .seekingStart) ∧
    ∃ t, exec .tryExtract (block start) = .next t ∧ t.replies = (block start).replies ++ [.single .none] ∧
      t.sync = .seekingEnd :=
  ⟨⟨_, rfl, by decide⟩, _, rfl, by decide⟩

theorem witness_AppendedBytesDoNotChangeAnExtraction :
    (∃ t, (block (stop ++ start)).Ready ∧ exec .tryExtract (block (stop ++ start)) = .next t ∧
      t.replies = (block []).replies ++ [.single .malformedOrdering]) ∧
    ∃ t, (block start).Ready ∧ exec .tryExtract (block start) = .next t ∧
      t.replies = (block []).replies ++ [.single .none] :=
  ⟨⟨_, by decide, rfl, by decide⟩, _, by decide, rfl, by decide⟩

theorem witness_DrainRepeatsTryExtractUntilNone : (block (start ++ stop)).Ready := by decide

theorem witness_ChunkingDoesNotChangeTheFrames : (block []).Ready ∧ (block []).bufCap = none := by decide

theorem witness_StrayEndIsReportedAndTheNextFrameIsIntact :
    (block []).Ready ∧ (block []).bufCap = none ∧ (block []).buf = [] ∧ (block []).sync = .seekingStart ∧
    EarliestAt (block []).endBytes ([1, 2] ++ (block []).endBytes) [(1 : Byte), 2].length ∧
    EarliestAt (block []).endBytes ([] ++ (block []).endBytes) ([] : ByteString).length ∧
    EarliestAt (block []).startBytes ((block []).endBytes ++ (block []).startBytes) 4 := by decide

theorem witness_ResetAbandonsThePartialPayload :
    (openBlock [1, 2]).configured = true ∧ (openBlock [1, 2]).bufCap = none ∧
    cfgWellFormed (smallCfg .bigFirst .pad) = true ∧
    EarliestAt (markerBytes (smallCfg .bigFirst .pad).endMarker)
      ([9, 8] ++ markerBytes (smallCfg .bigFirst .pad).endMarker) [(9 : Byte), 8].length := by decide

theorem witness_StartMarkerInsideAnOpenFrameIsPayload :
    (block []).Ready ∧ (block []).bufCap = none ∧ (block []).buf = [] ∧ (block []).sync = .seekingStart ∧
    EarliestAt (block []).endBytes ([1] ++ (block []).startBytes ++ [9] ++ (block []).endBytes)
      ([(1 : Byte)].length + 4 + [(9 : Byte)].length) := by decide

/-- A marker that is cut after its third byte. -/
theorem witness_IncrementalScanFindsTheSameMarker :
    Absent (markerBytes referenceEnd) [0x00, 0x55, 0xAA, 0x55] := by decide

/-- A long, an exact and, under PAD, an empty payload. -/
theorem witness_DecodeRgb565ConvertsEveryCell :
    (block []).Ready ∧ (block []).cfg.width * (block []).cfg.height * 2 ≤ [(1 : Byte), 2, 3, 4, 5].length ∧
    (block []).cfg.width * (block []).cfg.height * 2 ≤ [(1 : Byte), 2, 3, 4].length ∧
    padBlock.Ready ∧ padBlock.cfg.shortPolicy = .pad := by decide

/-- Short by one byte; odd and even sizes next to `WIDTH * HEIGHT * 2`, long, exact and padded. -/
theorem witness_DecodeRgb565RejectsInOrder :
    ((block []).Ready ∧ [(1 : Byte), 2].length < 3 ∧ (block []).cfg.shortPolicy = .reject) ∧
    (3 ≤ [(1 : Byte), 2, 3, 4].length ∧ 3 % 2 = 1) ∧
    (padBlock.Ready ∧ padBlock.cfg.shortPolicy = .pad ∧ 5 % 2 = 1 ∧ 6 % 2 = 0 ∧
      6 ≠ padBlock.cfg.width * padBlock.cfg.height * 2) ∧
    0 ≤ ([] : ByteString).length ∧ 0 % 2 = 0 ∧ 0 ≠ (block []).cfg.width * (block []).cfg.height * 2 := by decide

/-- Unfaulted with a truncated payload, and faulted. -/
theorem witness_TruncationWarningAccompaniesEveryRgbResult :
    (block []).configured = true ∧ (block []).fault = .noFault ∧ 4 < [(1 : Byte), 2, 3, 4, 5].length ∧
    faultedBlock.configured = true ∧ faultedBlock.fault = .bufOverflow := by decide

/-- The first and the last reserved code. -/
theorem witness_ReservedCodesReturnIllegalOp :
    7 ≤ (bareCommand 7).op.toNat ∧ 7 ≤ (bareCommand 15).op.toNat := by decide

theorem witness_DecodeRgb565ReadsOnlyItsConfiguration :
    (block []).configured = true ∧ (openBlock [1]).configured = true ∧ (block []).fault = (openBlock [1]).fault ∧
    (block []).cfg.width = (openBlock [1]).cfg.width ∧ (block []).cfg.height = (openBlock [1]).cfg.height ∧
    (block []).cfg.byteOrder = (openBlock [1]).cfg.byteOrder ∧
    (block []).cfg.shortPolicy = (openBlock [1]).cfg.shortPolicy := by decide

theorem witness_CellTokenDecodesToItsOwnChannels (order : ByteOrder) :
    { block [] with cfg := { smallCfg order .pad with width := 1 } }.Ready ∧ (block []).bufCap = none ∧
    (block []).buf = [] ∧ { smallCfg order .pad with width := 1 }.width = 1 ∧
    (smallCfg order .pad).height = 1 ∧ (smallCfg order .pad).byteOrder = order := by cases order <;> decide

/-- A short and a corrupted line; a valid line before and at the last row of the frame. -/
theorem witness_MaskRowAccumulatesValidRows :
    ((bareCommand 5).op = 5 ∧ (bareCommand 5).bytes.length < 4294967296) ∧
    (faultedBlock.configured = true ∧ faultedBlock.fault = .bufOverflow) ∧
    ((maskBlock []).Ready ∧
      ¬ ([(0x30 : Byte), 0x31, 0x30].length = maskCfg.width ∧ ∀ b ∈ [(0x30 : Byte), 0x31, 0x30], b = 0x30 ∨ b = 0x31) ∧
      ¬ ([(0x30 : Byte), 0x31, 0x32, 0x31].length = maskCfg.width ∧
        ∀ b ∈ [(0x30 : Byte), 0x31, 0x32, 0x31], b = 0x30 ∨ b = 0x31)) ∧
    ([(0x30 : Byte), 0x31, 0x30, 0x31].length = maskCfg.width ∧
      (∀ b ∈ [(0x30 : Byte), 0x31, 0x30, 0x31], b = 0x30 ∨ b = 0x31)) ∧
    (maskBlock []).maskRows.length + 1 ≠ maskCfg.height ∧ (maskBlock [[0, 1, 1, 0]]).Ready ∧
    (maskBlock [[0, 1, 1, 0]]).maskRows.length + 1 = maskCfg.height := by decide

theorem witness_DecodeMaskIsMaskRowOfEveryLine :
    (maskBlock []).Ready ∧ ([[0x30], []] : List ByteString) ≠ [] ∧
    ∀ line ∈ ([[0x30], []] : List ByteString), (0x0A : Byte) ∉ line := by decide

theorem witness_DecodeMaskOfJoinedPayloads : (maskBlock []).Ready := by decide

theorem witness_OnlyTheValidRowCounts :
    (maskBlock []).Ready ∧ (maskBlock []).maskRows = [] ∧ 2 ≤ (maskBlock []).cfg.height ∧
    [(0x30 : Byte), 0x31, 0x30].length + 1 = (maskBlock []).cfg.width ∧
    (0x0A : Byte) ∉ [(0x30 : Byte), 0x31, 0x30] ∧ (0x0A : Byte) ∉ [(0x30 : Byte), 0x31, 0x32, 0x31] ∧
    (0x32 : Byte) ∈ [(0x30 : Byte), 0x31, 0x32, 0x31] ∧
    [(0x30 : Byte), 0x31, 0x31, 0x30].length = (maskBlock []).cfg.width ∧
    ∀ b ∈ [(0x30 : Byte), 0x31, 0x31, 0x30], b = 0x30 ∨ b = 0x31 := by decide

/-- TRY_EXTRACT finding a frame, and not. -/
theorem witness_PipeDecodesTheExtractedFrame :
    (openBlock stop).configured = true ∧
    repliesOf .tryExtract (openBlock stop) = some [.single (.ok (.rawFrame ⟨[], 0, 4, 4⟩))] ∧
    repliesOf .tryExtract (openBlock []) = some [.single .none] := by decide

/-- In either format. -/
theorem witness_PipeDecodesAnOpenFrame (format : PayloadFormat) :
    { openBlock (1 :: stop) with cfg := { smallCfg .bigFirst .pad with format := format } }.Ready ∧
    (openBlock (1 :: stop)).sync = .seekingEnd ∧
    EarliestAt (markerBytes { smallCfg .bigFirst .pad with format := format }.endMarker)
      (openBlock (1 :: stop)).buf 1 ∧
    { smallCfg .bigFirst .pad with format := format }.format = format := by cases format <;> decide

/-- In either format. -/
theorem witness_RunDeliversWhatTheDrainYields :
    (block []).Ready ∧ (block []).bufCap = none ∧ (block []).cfg.format = .rgb565 ∧
    (maskBlock []).Ready ∧ (maskBlock []).bufCap = none ∧ (maskBlock []).cfg.format = .mask := by decide

/-- A chunk that just fits, and one that overflows. -/
theorem witness_RunReadsUntilStoppedOrFaulted :
    ({ fullBlock with bufCap := some 4 }.Ready ∧
      ∀ cap, some 4 = some cap → fullBlock.buf.length + [(1 : Byte), 2].length ≤ cap) ∧
    fullBlock.Ready ∧ fullBlock.bufCap = some (fullBlock.buf.length + 0) ∧ 0 < [(1 : Byte)].length :=
  ⟨⟨by decide, fun cap h => by cases h; decide⟩, by decide⟩

theorem witness_FaultStaysUntilReset :
    faultedBlock.configured = true ∧ faultedBlock.fault = .bufOverflow ∧
    cfgWellFormed (smallCfg .bigFirst .pad) = true ∧ isReset (.feedn [1]) = false ∧
    ∃ t, exec (.feedn [1]) faultedBlock = .next t := ⟨rfl, rfl, by decide, rfl, _, rfl⟩

theorem witness_OnlyResetLeavesTheFaultedState :
    ∃ t, exec .pipe faultedBlock = .next t ∧ faultedBlock.fault = .bufOverflow ∧ isReset .pipe = false :=
  ⟨_, rfl, by decide⟩

theorem witness_UnboundedBlockNeverFaults :
    ∃ t, ((block []).withInbox [encode (.feed 1)]).bufCap = none ∧
      ((block []).withInbox [encode (.feed 1)]).fault = .noFault ∧
      step ((block []).withInbox [encode (.feed 1)]) = .next t :=
  ⟨_, by decide, by decide, rfl⟩

theorem witness_EveryInstructionReturnsOneReply : (block []).configured = true := by decide

theorem witness_OperationsReturnOnlyTheirOwnCodes :
    ∃ t, exec .pipe (block []) = .next t ∧ t.replies = (block []).replies ++ [.single .none] :=
  ⟨_, rfl, by decide⟩

theorem witness_RepliesAndInboxAreNeverRead : ∃ t, exec .drain (block start) = .next t := ⟨_, rfl⟩

/-- One instruction for each clause: STATUS writes nothing, PIPE feeds nothing. -/
theorem witness_EachVariableHasItsWriters :
    (∃ t, exec .status (block [1]) = .next t ∧ isReset .status = false ∧ mayExtract .status = false ∧
      mayAccumulate .status = false ∧ mayFeed .status = false) ∧
    ∃ t, exec .pipe (block [1]) = .next t ∧ isReset .pipe = false ∧ mayFeed .pipe = false :=
  ⟨⟨_, rfl, by decide⟩, _, rfl, by decide⟩

/-- A byte that is retained before and after. -/
theorem witness_StreamMovesOnlyForward :
    ∃ t, exec .tryExtract (block (start ++ [1])) = .next t ∧ isReset .tryExtract = false ∧ t.base ≤ 4 ∧
      4 < (block (start ++ [1])).streamEnd := ⟨_, rfl, by decide⟩

theorem witness_StepKeepsTheStateInvariant :
    ((maskBlock [[0, 1, 1, 0]]).withInbox [encode (.maskRow [0x31, 0x31, 0x31, 0x31])]).Inv ∧
    ∃ t, step ((maskBlock [[0, 1, 1, 0]]).withInbox [encode (.maskRow [0x31, 0x31, 0x31, 0x31])]) = .next t :=
  ⟨fun _ => by decide, _, rfl⟩

theorem witness_ReturnedFramesHaveTheirDeclaredSize :
    ((block []).withInbox [encode (.decodeRgb565 [1, 2, 3, 4] 4)]).Inv ∧
    ∃ t, step ((block []).withInbox [encode (.decodeRgb565 [1, 2, 3, 4] 4)]) = .next t :=
  ⟨fun _ => by decide, _, rfl⟩

end Sys2Proof.Tests
end

section
/-! PROOFS. The family 00_scope: where FEED stores its byte, and incremental scanning (spec/00_scope.md R15). -/

namespace Sys2Proof.Machine

variable {m s : ByteString}

/-! ## FEED as a store to the stream -/

/-- FEED answers with the operation of 40_synchronizer.md R101. -/
theorem exec_feed (b : Byte) (s : State) : exec (.feed b) s = answer s (feedOp b s) := rfl

/-- The bytes that can be read after FEED: those of the operation, as the answer leaves them alone. -/
theorem byteAt_of_exec_feed {b : Byte} {s t : State} (h : exec (.feed b) s = .next t) (n : Nat) :
    t.byteAt n = (feedOp b s).1.byteAt n := by
  rw [exec_feed, answer_eq_next] at h
  obtain ⟨-, rfl⟩ := h
  exact State.post_byteAt _ _ n

/-- The operation stores one byte, at the end of the stream, and only where the block is unfaulted and has
room (40_synchronizer.md R101, 20_memory.md R52). -/
theorem feedOp_byteAt (b : Byte) (s : State) (n : Nat) :
    (feedOp b s).1.byteAt n =
      if n = s.streamEnd ∧ s.fault = .noFault ∧ s.bufCap ≠ some s.buf.length then some b
      else s.byteAt n := by
  rcases feedOp_cases b s with ⟨hf, he⟩ | ⟨-, hfull, he⟩ | ⟨hf, hroom, he⟩
  · simp [he, hf]
  · simp [he, bufFull_iff.mp hfull]
  · have hcap : s.bufCap ≠ some s.buf.length := by simpa [State.bufFull] using hroom
    simp [he, hf, hcap, appendByte_byteAt]

/-- Settles O13, from what the operation does to the byte at every stream offset. -/
theorem feedStoresOneByteOfTheStream : Obligations.FeedStoresOneByteOfTheStream := by
  intro b s t h
  have hread (n : Nat) := (byteAt_of_exec_feed h n).trans (feedOp_byteAt b s n)
  refine ⟨fun n hn => ?elsewhere, fun hf hcap => ?appended, fun hkept => ?kept⟩
  case elsewhere => rw [hread, if_neg fun hstore => hn hstore.1]
  case appended => rw [hread, if_pos ⟨rfl, hf, hcap⟩]
  case kept =>
    rw [hread, if_neg]
    rintro ⟨-, hf, hcap⟩
    rcases hkept with hfault | hfull
    · exact absurd (hf.symm.trans hfault) (by decide)
    · exact hcap hfull

/-! ## Searching on from a later index -/

/-- Where the pattern does not begin before index `k`, searching from `k` on finds the same occurrence: by
induction on `k`, one byte of the string skipped at a time. -/
theorem find_eq_map_find_drop {k : Nat} (hk : k ≤ s.length) (h : ∀ j < k, ¬ m <+: s.drop j) :
    find m s = (find m (s.drop k)).map (· + k) := by
  induction k with
  | zero => simp
  | succ k ih =>
    have hcons : s.drop k = s[k] :: s.drop (k + 1) := List.drop_eq_getElem_cons hk
    have hskip : find m (s.drop k) = (find m (s.drop (k + 1))).map (· + 1) := by
      rw [hcons, find_cons, ← hcons, if_neg (h k k.lt_succ_self)]
    rw [ih (by omega) fun j hj => h j (by omega), hskip, Option.map_map]
    congr 1
    funext i
    simp only [Function.comp_apply]
    omega

/-- A pattern that is absent from the old bytes begins, once new ones follow, at none of the indices from
which it would end inside the old ones (40_synchronizer.md R114). -/
theorem not_prefix_drop_append_of_absent {old : ByteString} (h : Absent m old) (new : ByteString) {j : Nat}
    (hj : j + m.length ≤ old.length) : ¬ m <+: (old ++ new).drop j := by
  rw [prefix_drop_append_iff hj]
  exact fun hp => h j (by omega) (occursAt_iff.mpr ⟨by omega, hp⟩)

/-- Settles O25: a marker has four bytes, so one that begins more than three bytes before the old end ends
inside the old bytes, where it is absent. -/
theorem incrementalScanFindsTheSameMarker : Obligations.IncrementalScanFindsTheSameMarker := by
  intro m old new habsent
  have hlength : (markerBytes m).length = 4 := rfl
  refine find_eq_map_find_drop (by rw [List.length_append]; omega) fun j hj => ?_
  exact not_prefix_drop_append_of_absent habsent new (by omega)

end Sys2Proof.Machine
end

section
/-! PROOFS. The family 10_state, what every instruction does: one equation for `exec` (what is performed, and on
which blocks it is defined), and the writes to the state that an instruction other than RESET is made of
(spec/10_state.md R20 to R25, spec/43_system.md R170). -/

namespace Sys2Proof.Machine

variable {i : Instr} {s t : State}

/-! ## One equation for `exec` -/

/-- An effect as what an inbox item gives back: its state and its one result. -/
def asSingle (e : Effect) : State × Reply := (e.1, .single e.2)

/-- The state and the results of a sequence of operations, as what an inbox item gives back. -/
def asSequence (e : State × List Result) : State × Reply := (e.1, .sequence e.2)

/-- What an instruction does to the state and the reply it hands back, where it is defined. -/
def perform : Instr → State → State × Reply
  | .reset c, s => asSingle (resetOp c s)
  | .feed b, s => asSingle (feedOp b s)
  | .tryExtract, s => asSingle (tryExtractOp s)
  | .decodeRgb565 payload expectedSize, s => asSingle (decodeRgb565Op payload expectedSize s)
  | .decodeMask payload, s => asSingle (decodeMaskOp payload s)
  | .maskRow line, s => asSingle (maskRowOp line s)
  | .status, s => asSingle (statusOp s)
  | .reserved7, s => asSingle (reservedOp s)
  | .reserved8to15 _, s => asSingle (reservedOp s)
  | .feedn chunk, s => asSequence (feednOp chunk s)
  | .drain, s => asSequence (drainOp s)
  | .pipe, s => asSingle (pipeOp s)
  | .run reads, s => ((runOp reads s).1, .loop (runOp reads s).2)
  | .wireStart, s => asSequence (feednOp (markerBytes referenceStart) s)
  | .wireEnd, s => asSequence (feednOp (markerBytes referenceEnd) s)
  | .wireCellBig r5 g6 b5, s => asSequence (feednOp (cellBytes .bigFirst (cellOfChannels r5 g6 b5)) s)
  | .wireCellLittle r5 g6 b5, s =>
    asSequence (feednOp (cellBytes .littleFirst (cellOfChannels r5 g6 b5)) s)
  | .wireMaskChar0, s => asSequence (feednOp [char0] s)
  | .wireMaskChar1, s => asSequence (feednOp [char1] s)
  | .wireMaskNewline, s => asSequence (feednOp [newline] s)

/-- The instruction issues an operation that only a block that was reset performs (10_state.md R36,
70_reset_and_hazards.md R212; log 3, log 11). -/
def needsReset : Instr → Bool
  | .reset _ | .reserved7 | .reserved8to15 _ => false
  | .feedn chunk => decide (chunk ≠ [])
  | .run reads => runTouchesBlock reads
  | .feed _ | .tryExtract | .decodeRgb565 _ _ | .decodeMask _ | .maskRow _ | .status | .drain | .pipe
  | .wireStart | .wireEnd | .wireCellBig _ _ _ | .wireCellLittle _ _ _ | .wireMaskChar0 | .wireMaskChar1
  | .wireMaskNewline => true

/-- Everything an instruction can do: it is performed, or refused on a block that was never reset. -/
theorem exec_eq (i : Instr) (s : State) :
    exec i s = if s.configured || !needsReset i then .next ((perform i s).1.post (perform i s).2)
      else .refused .neverReset := by
  cases i
  case feedn chunk =>
    by_cases hc : chunk = []
    · subst hc; simp [exec, execFeedn, needsReset, perform, asSequence]
    · simp [exec, execFeedn, answerSequence, needsReset, perform, asSequence, hc]
  case reset | reserved7 | reserved8to15 | run =>
    simp [exec, needsReset, perform, asSingle, execReset, execReserved7, execReserved8to15, execRun,
      answerAlways]
  case feed | tryExtract | decodeRgb565 | decodeMask | maskRow | status | pipe =>
    simp [exec, needsReset, perform, asSingle, answer, answerAlways, execFeed, execTryExtract,
      execDecodeRgb565, execDecodeMask, execMaskRow, execStatus, execPipe]
  all_goals
    simp [exec, needsReset, perform, asSequence, answerSequence, execDrain, deliverToken, execWireStart,
      execWireEnd, execWireCellBig, execWireCellLittle, execWireMaskChar0, execWireMaskChar1,
      execWireMaskNewline]

/-- An instruction that completes was performed, and its reply handed to the host. -/
theorem exec_eq_next_iff :
    exec i s = .next t ↔
      (s.configured || !needsReset i) = true ∧ t = (perform i s).1.post (perform i s).2 := by
  rw [exec_eq]
  cases s.configured || !needsReset i <;> simp [eq_comm]

/-- A step that completes stutters on an empty inbox, or performs the oldest item's instruction. -/
theorem step_eq_next (h : step s = .next t) : t = s ∨ ∃ rest i, exec i (s.withInbox rest) = .next t := by
  rcases step_cases s with ⟨-, hs⟩ | ⟨_, rest, i, -, -, hs⟩ | ⟨_, _, _, -, -, hs⟩ <;> rw [hs] at h
  · cases h; exact .inl rfl
  · exact .inr ⟨rest, i, h⟩
  · cases h

/-! ## The writes an instruction is made of -/

/-- `t` comes of `s` by writes that instruction `i` may make: of FEED where it feeds, of TRY_EXTRACT where it
extracts, of a mask line where it accumulates, and each with the fault gate open (10_state.md R20,
40_synchronizer.md R100). -/
inductive Evolves (i : Instr) (s : State) : State → Prop
  | refl : Evolves i s s
  | append {t : State} (b : Byte) : mayFeed i = true → t.fault = .noFault → t.bufFull = false →
      Evolves i s t → Evolves i s (t.appendByte b)
  | overflow {t : State} : mayFeed i = true → t.fault = .noFault → t.bufFull = true →
      Evolves i s t → Evolves i s (t.setFault .bufOverflow)
  | extract {t : State} (n : Nat) (v : Sync) : mayExtract i = true → t.fault = .noFault →
      n ≤ t.buf.length → Evolves i s t → Evolves i s ((t.dropFront n).setSync v)
  | accept {t : State} (line : ByteString) : mayAccumulate i = true → t.fault = .noFault →
      Evolves i s t → Evolves i s (acceptLine t line).1

@[simp] theorem decodeRgb565Op_fst (payload : ByteString) (expectedSize : Nat) (s : State) :
    (decodeRgb565Op payload expectedSize s).1 = s := by
  unfold decodeRgb565Op
  rcases gate_cases s (s, rgb565Result s.cfg payload expectedSize) with ⟨-, h⟩ | ⟨-, h⟩ <;> rw [h]

/-! ### An accumulation step, field by field -/

theorem acceptLine_fst_eq (s : State) (line : ByteString) :
    (acceptLine s line).1 = s.setMaskRows (acceptLine s line).1.maskRows := by
  obtain ⟨rows, h⟩ := acceptLine_writes s line
  rw [h]
  rfl

@[simp] theorem acceptLine_bufCap (s : State) (line : ByteString) :
    (acceptLine s line).1.bufCap = s.bufCap := by rw [acceptLine_fst_eq, State.setMaskRows_bufCap]
@[simp] theorem acceptLine_configured (s : State) (line : ByteString) :
    (acceptLine s line).1.configured = s.configured := by rw [acceptLine_fst_eq, State.setMaskRows_configured]
@[simp] theorem acceptLine_cfg (s : State) (line : ByteString) :
    (acceptLine s line).1.cfg = s.cfg := by rw [acceptLine_fst_eq, State.setMaskRows_cfg]
@[simp] theorem acceptLine_buf (s : State) (line : ByteString) :
    (acceptLine s line).1.buf = s.buf := by rw [acceptLine_fst_eq, State.setMaskRows_buf]
@[simp] theorem acceptLine_sync (s : State) (line : ByteString) :
    (acceptLine s line).1.sync = s.sync := by rw [acceptLine_fst_eq, State.setMaskRows_sync]
@[simp] theorem acceptLine_base (s : State) (line : ByteString) :
    (acceptLine s line).1.base = s.base := by rw [acceptLine_fst_eq, State.setMaskRows_base]
@[simp] theorem acceptLine_fault (s : State) (line : ByteString) :
    (acceptLine s line).1.fault = s.fault := by rw [acceptLine_fst_eq, State.setMaskRows_fault]
@[simp] theorem acceptLine_inbox (s : State) (line : ByteString) :
    (acceptLine s line).1.inbox = s.inbox := by rw [acceptLine_fst_eq, State.setMaskRows_inbox]
@[simp] theorem acceptLine_replies (s : State) (line : ByteString) :
    (acceptLine s line).1.replies = s.replies := by rw [acceptLine_fst_eq, State.setMaskRows_replies]
@[simp] theorem acceptLine_streamEnd (s : State) (line : ByteString) :
    (acceptLine s line).1.streamEnd = s.streamEnd := by rw [acceptLine_fst_eq, State.setMaskRows_streamEnd]
@[simp] theorem acceptLine_byteAt (s : State) (line : ByteString) (n : Nat) :
    (acceptLine s line).1.byteAt n = s.byteAt n := by rw [acceptLine_fst_eq, State.setMaskRows_byteAt]

/-! ### What each operation writes -/

namespace Evolves

theorem feedOp (hi : mayFeed i = true) (h : Evolves i s t) (b : Byte) :
    Evolves i s (Machine.feedOp b t).1 := by
  rcases feedOp_cases b t with ⟨-, he⟩ | ⟨hf, hfull, he⟩ | ⟨hf, hroom, he⟩ <;> rw [he]
  · exact h
  · exact h.overflow hi hf hfull
  · exact h.append b hi hf hroom

theorem feednOp (hi : mayFeed i = true) (h : Evolves i s t) (bytes : ByteString) :
    Evolves i s (Machine.feednOp bytes t).1 := by
  induction bytes generalizing t with
  | nil => exact h
  | cons b rest ih =>
    rcases feednOp_cons_cases b rest t with ⟨-, he⟩ | ⟨-, he⟩ <;> rw [he]
    · exact h.feedOp hi b
    · exact ih (h.feedOp hi b)

theorem tryExtractOp (hi : mayExtract i = true) (h : Evolves i s t) :
    Evolves i s (Machine.tryExtractOp t).1 := by
  rcases gate_cases t (Machine.extract t) with ⟨hf, -⟩ | ⟨-, hg⟩
  · obtain ⟨n, v, hn, he⟩ := tryExtractOp_drops t
    rw [he]
    exact h.extract n v hi hf hn
  · rw [Machine.tryExtractOp, hg]
    exact h

theorem drainLoop (hi : mayExtract i = true) (h : Evolves i s t) (fuel : Nat) :
    Evolves i s (Machine.drainLoop fuel t).1 := by
  induction fuel generalizing t with
  | zero => exact h
  | succ fuel ih =>
    rw [drainLoop_succ]
    split
    · exact h.tryExtractOp hi
    · exact ih (h.tryExtractOp hi)

theorem acceptLines (hi : mayAccumulate i = true) (hf : t.fault = .noFault) (h : Evolves i s t)
    (lines : List ByteString) : Evolves i s (Machine.acceptLines t lines).1 := by
  induction lines generalizing t with
  | nil => exact h
  | cons line rest ih =>
    rw [acceptLines_cons]
    exact ih (by rw [acceptLine_fault, hf]) (h.accept line hi hf)

theorem maskRowOp (hi : mayAccumulate i = true) (h : Evolves i s t) (line : ByteString) :
    Evolves i s (Machine.maskRowOp line t).1 := by
  unfold Machine.maskRowOp
  rcases gate_cases t ((acceptLine t line).1, maskRowResult (acceptLine t line).2) with
    ⟨hf, hg⟩ | ⟨-, hg⟩ <;> rw [hg]
  · exact h.accept line hi hf
  · exact h

theorem decodeMaskOp (hi : mayAccumulate i = true) (h : Evolves i s t) (payload : ByteString) :
    Evolves i s (Machine.decodeMaskOp payload t).1 := by
  unfold Machine.decodeMaskOp
  rcases gate_cases t ((Machine.acceptLines t (splitLines payload)).1,
    decodeMaskResult (Machine.acceptLines t (splitLines payload)).2) with ⟨hf, hg⟩ | ⟨-, hg⟩ <;> rw [hg]
  · exact h.acceptLines hi hf _
  · exact h

theorem decodeFrameOp (hi : mayAccumulate i = true) (h : Evolves i s t) (payload : ByteString) :
    Evolves i s (Machine.decodeFrameOp payload t).1 := by
  unfold Machine.decodeFrameOp
  cases t.cfg.format
  · simpa using h
  · exact h.decodeMaskOp hi payload

theorem pipeOp (he : mayExtract i = true) (ha : mayAccumulate i = true) (h : Evolves i s t) :
    Evolves i s (Machine.pipeOp t).1 := by
  rcases pipeOp_cases t with ⟨-, hp⟩ | ⟨f, -, hp⟩ <;> rw [hp]
  · exact h.tryExtractOp he
  · exact (h.tryExtractOp he).decodeFrameOp ha _

end Evolves

/-- Everything one turn of RUN's `repeat` can do: decode and deliver the extracted frame, or leave the state as
TRY_EXTRACT did and hand on no frame (43_system.md R167). -/
theorem runTurn_cases (s : State) :
    (∃ f : RawFrame, runTurn s = ((decodeFrameOp f.payload (tryExtractOp s).1).1,
      deliver (decodeFrameOp f.payload (tryExtractOp s).1).2, .again)) ∨
    ∃ events turn, runTurn s = ((tryExtractOp s).1, events, turn) ∧ events.flatMap framesOfEvent = [] := by
  unfold runTurn
  dsimp only
  split
  case h_4 f _ => exact .inl ⟨f, rfl⟩
  all_goals exact .inr ⟨_, _, rfl, rfl⟩

/-- Everything one more turn of RUN's `repeat` can do: end the `repeat`, or go on with the next turn. -/
theorem runRepeat_succ_cases (fuel : Nat) (s : State) :
    (∃ failed, runRepeat (fuel + 1) s = ((runTurn s).1, (runTurn s).2.1, failed)) ∨
    runRepeat (fuel + 1) s =
      ((runRepeat fuel (runTurn s).1).1, (runTurn s).2.1 ++ (runRepeat fuel (runTurn s).1).2.1,
        (runRepeat fuel (runTurn s).1).2.2) := by
  rw [runRepeat_succ]
  cases (runTurn s).2.2
  case again => exact .inr rfl
  case left => exact .inl ⟨false, rfl⟩
  case failed => exact .inl ⟨true, rfl⟩

/-- The `repeat` of RUN after a chunk was fed (43_system.md R167). -/
def runChunk (bytes : ByteString) (s : State) : State × List HostEvent × Bool :=
  runRepeat (feednOp bytes s).1.drainFuel (feednOp bytes s).1

/-- Everything a chunk read by RUN can do: end the loop with an error, or go on with the next read. -/
theorem runOp_chunk_cases (bytes : ByteString) (rest : List SourceRead) (s : State) :
    runOp (.chunk bytes :: rest) s = ((runChunk bytes s).1, (runChunk bytes s).2.1) ∨
    runOp (.chunk bytes :: rest) s =
      ((runOp rest (runChunk bytes s).1).1, (runChunk bytes s).2.1 ++ (runOp rest (runChunk bytes s).1).2) := by
  rw [runOp_chunk]
  cases h : (runChunk bytes s).2.2
  · exact .inr (if_neg (by rw [runChunk] at h; simp [h]))
  · exact .inl (if_pos h)

namespace Evolves

theorem runTurn (he : mayExtract i = true) (ha : mayAccumulate i = true) (h : Evolves i s t) :
    Evolves i s (Machine.runTurn t).1 := by
  rcases runTurn_cases t with ⟨f, hr⟩ | ⟨_, _, hr, -⟩ <;> rw [hr]
  · exact (h.tryExtractOp he).decodeFrameOp ha _
  · exact h.tryExtractOp he

theorem runRepeat (he : mayExtract i = true) (ha : mayAccumulate i = true) (h : Evolves i s t) (fuel : Nat) :
    Evolves i s (Machine.runRepeat fuel t).1 := by
  induction fuel generalizing t with
  | zero => exact h
  | succ fuel ih =>
    rcases runRepeat_succ_cases fuel t with ⟨_, hr⟩ | hr <;> rw [hr]
    · exact h.runTurn he ha
    · exact ih (h.runTurn he ha)

theorem runChunk (hf : mayFeed i = true) (he : mayExtract i = true) (ha : mayAccumulate i = true)
    (h : Evolves i s t) (bytes : ByteString) : Evolves i s (Machine.runChunk bytes t).1 :=
  (h.feednOp hf bytes).runRepeat he ha _

theorem runOp (hf : mayFeed i = true) (he : mayExtract i = true) (ha : mayAccumulate i = true)
    (h : Evolves i s t) (reads : List SourceRead) : Evolves i s (Machine.runOp reads t).1 := by
  induction reads generalizing t with
  | nil => exact h
  | cons read rest ih =>
    cases read with
    | closed => exact h
    | chunk bytes =>
      rcases runOp_chunk_cases bytes rest t with hr | hr <;> rw [hr]
      · exact h.runChunk hf he ha bytes
      · exact ih (h.runChunk hf he ha bytes)

end Evolves

/-! ## RESET, and every other instruction -/

theorem isReset_eq_true_iff : isReset i = true ↔ ∃ c, i = .reset c := by
  cases i <;> simp [isReset]

/-- Everything RESET can do (43_system.md R160). -/
theorem resetOp_cases (c : Cfg) (s : State) :
    cfgWellFormed c = true ∧ resetOp c s = (s.load c, .ok .nothing) ∨
    cfgWellFormed c = false ∧ resetOp c s = (s, .refusedCfg) := by
  cases h : cfgWellFormed c
  · exact .inr ⟨rfl, by simp [resetOp, h]⟩
  · exact .inl ⟨rfl, by simp [resetOp, h]⟩

@[simp] theorem perform_reset (c : Cfg) (s : State) : perform (.reset c) s = asSingle (resetOp c s) := rfl

@[simp] theorem asSingle_fst (e : Effect) : (asSingle e).1 = e.1 := rfl

/-- Every instruction but RESET changes the state by the writes of the operations it issues, and no others
(43_system.md R170). -/
theorem perform_evolves (hi : isReset i = false) (s : State) : Evolves i s (perform i s).1 := by
  have h : Evolves i s s := .refl
  cases i
  case reset => cases hi
  case feed b => exact h.feedOp rfl b
  case tryExtract => exact h.tryExtractOp rfl
  case decodeRgb565 => simpa [perform, asSingle] using h
  case decodeMask payload => exact h.decodeMaskOp rfl payload
  case maskRow line => exact h.maskRowOp rfl line
  case status | reserved7 | reserved8to15 => exact h
  case drain => exact h.drainLoop rfl _
  case pipe => exact h.pipeOp rfl rfl
  case run reads => exact h.runOp rfl rfl rfl reads
  all_goals exact h.feednOp rfl _

/-- Everything an instruction can do to the state: RESET's writes, or those of the operations it issues. -/
theorem perform_cases (i : Instr) (s : State) :
    (∃ c, i = .reset c) ∨ isReset i = false ∧ Evolves i s (perform i s).1 := by
  cases h : isReset i
  · exact .inr ⟨rfl, perform_evolves h s⟩
  · exact .inl (isReset_eq_true_iff.mp h)

end Sys2Proof.Machine
end

section
/-! PROOFS. The family 10_state, what the writes keep: the writers of each variable, the stream, and the
invariants (spec/10_state.md R20 to R25, R35). -/

namespace Sys2Proof.Machine

variable {i : Instr} {s t : State}

/-! ## Who writes what -/

namespace Evolves

/-- No write is to BUF_CAP, to `cfg`, or to the list of replies. -/
theorem unwritten (h : Evolves i s t) :
    t.bufCap = s.bufCap ∧ t.configured = s.configured ∧ t.cfg = s.cfg ∧ t.replies = s.replies := by
  induction h with
  | refl => exact ⟨rfl, rfl, rfl, rfl⟩
  | append | overflow | extract => assumption
  | accept _ _ _ _ ih => simpa using ih

theorem sync_base_eq (hi : mayExtract i = false) (h : Evolves i s t) : t.sync = s.sync ∧ t.base = s.base := by
  induction h with
  | refl => exact ⟨rfl, rfl⟩
  | append | overflow => assumption
  | extract _ _ he => simp [hi] at he
  | accept _ _ _ _ ih => simpa using ih

theorem maskRows_eq (hi : mayAccumulate i = false) (h : Evolves i s t) : t.maskRows = s.maskRows := by
  induction h with
  | refl => rfl
  | append | overflow | extract => assumption
  | accept _ ha => simp [hi] at ha

theorem fault_streamEnd_eq (hi : mayFeed i = false) (h : Evolves i s t) :
    t.fault = s.fault ∧ t.streamEnd = s.streamEnd := by
  induction h with
  | refl => exact ⟨rfl, rfl⟩
  | append _ hf | overflow hf => simp [hi] at hf
  | extract n v _ _ hn _ ih => exact ⟨ih.1, (dropFront_streamEnd hn).trans ih.2⟩
  | accept _ _ _ _ ih => simpa using ih

theorem buf_eq (hf : mayFeed i = false) (he : mayExtract i = false) (h : Evolves i s t) : t.buf = s.buf := by
  induction h with
  | refl => rfl
  | append _ hi | overflow hi => simp [hf] at hi
  | extract _ _ hi => simp [he] at hi
  | accept _ _ _ _ ih => simpa using ih

end Evolves

theorem resetOp_bufCap (c : Cfg) (s : State) : (resetOp c s).1.bufCap = s.bufCap := by
  rcases resetOp_cases c s with ⟨-, h⟩ | ⟨-, h⟩ <;> rw [h]
  rfl

/-- Settles O48, each clause from the writes that the instruction is made of. -/
theorem eachVariableHasItsWriters : Obligations.EachVariableHasItsWriters := by
  intro i s t h
  obtain ⟨-, rfl⟩ := exec_eq_next_iff.mp h
  rcases perform_cases i s with ⟨c, rfl⟩ | ⟨hr, hw⟩
  · exact ⟨resetOp_bufCap c s, nofun, nofun, nofun, nofun, nofun⟩
  · obtain ⟨hcap, hconf, hcfg, -⟩ := hw.unwritten
    refine ⟨hcap, fun _ => ⟨hconf, hcfg⟩, fun _ => hw.sync_base_eq, fun _ => hw.maskRows_eq,
      fun _ => hw.fault_streamEnd_eq, fun _ hf he => ?_⟩
    obtain ⟨-, hbase⟩ := hw.sync_base_eq he
    have hbuf := hw.buf_eq hf he
    exact ⟨hbuf, fun n => by simp only [State.byteAt, State.post_base, State.post_buf, hbase, hbuf]⟩

/-! ## The stream -/

/-- The writes move the stream forward only, and a byte that stays retained stays the same
(10_state.md R23, 40_synchronizer.md R109). -/
theorem Evolves.stream_forward (h : Evolves i s t) :
    s.base ≤ t.base ∧ s.streamEnd ≤ t.streamEnd ∧
    ∀ n, t.base ≤ n → n < s.streamEnd → t.byteAt n = s.byteAt n := by
  induction h with
  | refl => exact ⟨le_rfl, le_rfl, fun _ _ _ => rfl⟩
  | overflow => assumption
  | append b _ _ _ _ ih =>
    obtain ⟨hbase, hend, hbyte⟩ := ih
    refine ⟨hbase, by rw [appendByte_streamEnd]; omega, fun n hn hlt => ?_⟩
    rw [appendByte_byteAt, if_neg (by omega), hbyte n hn hlt]
  | extract k v _ _ hk _ ih =>
    obtain ⟨hbase, hend, hbyte⟩ := ih
    refine ⟨?_, ?_, fun n hn hlt => ?_⟩
    · rw [State.setSync_base, State.dropFront_base]; omega
    · rwa [State.setSync_streamEnd, dropFront_streamEnd hk]
    · rw [State.setSync_base, State.dropFront_base] at hn
      rw [State.setSync_byteAt, dropFront_byteAt, if_neg (by omega), hbyte n (by omega) hlt]
  | accept _ _ _ _ ih => simpa using ih

/-- Settles O49. -/
theorem streamMovesOnlyForward : Obligations.StreamMovesOnlyForward := by
  intro i s t h hr
  obtain ⟨-, rfl⟩ := exec_eq_next_iff.mp h
  exact (perform_evolves hr s).stream_forward

/-! ## Unbounded capacity -/

theorem Evolves.unfaulted_of_unbounded (hcap : s.bufCap = none) (hs : s.fault = .noFault)
    (h : Evolves i s t) : t.fault = .noFault := by
  induction h with
  | refl => exact hs
  | append | extract => assumption
  | overflow _ _ hfull hu =>
    rw [bufFull_of_unbounded (hu.unwritten.1.trans hcap)] at hfull
    cases hfull
  | accept _ _ hf => rw [acceptLine_fault, hf]

theorem resetOp_unfaulted (c : Cfg) (hs : s.fault = .noFault) : (resetOp c s).1.fault = .noFault := by
  rcases resetOp_cases c s with ⟨-, h⟩ | ⟨-, h⟩ <;> rw [h]
  · rfl
  · exact hs

theorem perform_unbounded (i : Instr) (hcap : s.bufCap = none) (hs : s.fault = .noFault) :
    (perform i s).1.bufCap = none ∧ (perform i s).1.fault = .noFault := by
  rcases perform_cases i s with ⟨c, rfl⟩ | ⟨-, hw⟩
  · exact ⟨(resetOp_bufCap c s).trans hcap, resetOp_unfaulted c hs⟩
  · exact ⟨hw.unwritten.1.trans hcap, hw.unfaulted_of_unbounded hcap hs⟩

/-- Settles O44: without a capacity no FEED finds the buffer full. -/
theorem unboundedBlockNeverFaults : Obligations.UnboundedBlockNeverFaults := by
  intro s t hcap hs h
  rcases step_eq_next h with rfl | ⟨rest, i, he⟩
  · exact ⟨hcap, hs⟩
  · obtain ⟨-, rfl⟩ := exec_eq_next_iff.mp he
    exact perform_unbounded i (s := s.withInbox rest) hcap hs

end Sys2Proof.Machine
end

section
/-! PROOFS. The family 10_state, the invariants of spec/10_state.md R35 (a) to (c), and the block that was never
reset (spec/10_state.md R36). -/

namespace Sys2Proof.Machine

variable {i : Instr} {s t : State} {c : Cfg} {line : ByteString}

/-! ## The rows of `mask_rows` -/

theorem rowWf_iff {row : ByteString} :
    rowWf c row = true ↔ row.length = c.width ∧ ∀ b ∈ row, b = 0 ∨ b = 1 := by
  simp [rowWf]

theorem maskWf_iff :
    maskWf s = true ↔ s.maskRows.length < s.cfg.height ∧ ∀ row ∈ s.maskRows, rowWf s.cfg row = true := by
  simp [maskWf]

/-- A valid line gives a well-formed row (42_codec_mask.md R140). -/
theorem rowWf_rowOfLine (h : lineValid c line = true) : rowWf c (rowOfLine line) = true := by
  obtain ⟨hlen, hchars⟩ := lineValid_iff.mp h
  refine rowWf_iff.mpr ⟨by simpa [rowOfLine] using hlen, fun b hb => ?_⟩
  obtain ⟨ch, hch, rfl⟩ := List.mem_map.mp hb
  rcases hchars ch hch with rfl | rfl
  · exact .inl (by decide)
  · exact .inr (by decide)

theorem rowWf_of_mem_append_rowOfLine (hwf : maskWf s = true) (hv : lineValid s.cfg line = true) :
    ∀ row ∈ s.maskRows ++ [rowOfLine line], rowWf s.cfg row = true := by
  intro row hrow
  rcases List.mem_append.mp hrow with hold | hnew
  · exact (maskWf_iff.mp hwf).2 row hold
  · rw [List.mem_singleton.mp hnew]
    exact rowWf_rowOfLine hv

theorem acceptLine_maskWf (h : maskWf s = true) (line : ByteString) : maskWf (acceptLine s line).1 = true := by
  have hlt := (maskWf_iff.mp h).1
  rcases acceptLine_cases s line with ⟨-, he⟩ | ⟨-, -, he⟩ | ⟨hv, hne, he⟩ <;> rw [he]
  · exact h
  · exact maskWf_iff.mpr ⟨by simpa using by omega, by simp⟩
  · refine maskWf_iff.mpr ⟨?_, rowWf_of_mem_append_rowOfLine h hv⟩
    simpa using by omega

/-! ## The invariant -/

theorem load_maskWf (h : cfgWellFormed c = true) (s : State) : maskWf (s.load c) = true := by
  obtain ⟨-, ⟨hheight, -⟩, -⟩ := cfgWellFormed_iff.mp h
  exact maskWf_iff.mpr ⟨hheight, by simp⟩

theorem load_inv (h : cfgWellFormed c = true) (s : State) : (s.load c).Inv :=
  fun _ => ⟨h, load_memory_wf c, load_maskWf h s⟩

theorem Evolves.maskWf (hs : Machine.maskWf s = true) (h : Evolves i s t) : Machine.maskWf t = true := by
  induction h with
  | refl => exact hs
  | append | overflow | extract => assumption
  | accept line _ _ _ ih => exact acceptLine_maskWf ih line

theorem Evolves.memory_wf (hs : Memory.wf s = true) (h : Evolves i s t) : Memory.wf t = true := by
  induction h with
  | refl => exact hs
  | append b _ _ hroom _ ih => exact appendByte_memory_wf ih hroom b
  | overflow => assumption
  | extract n _ _ _ _ _ ih => exact dropFront_memory_wf ih n
  | accept line _ _ _ ih => rwa [acceptLine_fst_eq, setMaskRows_memory_wf]

theorem Evolves.inv (hs : s.Inv) (h : Evolves i s t) : t.Inv := by
  intro ht
  obtain ⟨-, hconf, hcfg, -⟩ := h.unwritten
  obtain ⟨hwf, hmem, hmask⟩ := hs (hconf ▸ ht)
  exact ⟨hcfg ▸ hwf, h.memory_wf hmem, h.maskWf hmask⟩

theorem perform_inv (i : Instr) (hs : s.Inv) : (perform i s).1.Inv := by
  rcases perform_cases i s with ⟨c, rfl⟩ | ⟨-, hw⟩
  · rcases resetOp_cases c s with ⟨hc, he⟩ | ⟨-, he⟩ <;> rw [perform_reset, asSingle_fst, he]
    · exact load_inv hc s
    · exact hs
  · exact hw.inv hs

/-- Settles O50: RESET's writes establish the invariant, and the writes of every other operation keep it. -/
theorem stepKeepsTheStateInvariant : Obligations.StepKeepsTheStateInvariant := by
  intro s t hs h
  rcases step_eq_next h with rfl | ⟨rest, i, he⟩
  · exact hs
  · obtain ⟨-, rfl⟩ := exec_eq_next_iff.mp he
    exact perform_inv i (s := s.withInbox rest) hs

/-- Settles O51: the reference configuration is well-formed, and a block that was never reset meets the invariant
for want of a state. -/
theorem resetStateMeetsTheInvariant : Obligations.ResetStateMeetsTheInvariant :=
  ⟨load_inv (c := referenceCfg .bigFirst .reject) (by decide) State.powerOn, nofun⟩

/-! ## Before and after the first RESET -/

/-- Settles O8: the reference configuration is well-formed, so RESET loads it. -/
theorem resetStateIsTheMachineRightAfterReset : Obligations.ResetStateIsTheMachineRightAfterReset := by
  have hwf : cfgWellFormed (referenceCfg .bigFirst .reject) = true := by decide
  refine exec_eq_next_iff.mpr ⟨rfl, ?_⟩
  simp only [perform_reset, resetOp, hwf, if_true]
  rfl

theorem exec_neverReset (hs : s.configured = false) (hi : needsReset i = true) :
    exec i s = .refused .neverReset := by
  rw [exec_eq, hs, hi]
  rfl

/-- Settles O11: each of the listed instructions issues an operation that needs a reset block. -/
theorem neverResetBlockRefusesOperations : Obligations.NeverResetBlockRefusesOperations := by
  intro s hs i hi
  refine exec_neverReset hs ?_
  rcases hi with hmem | ⟨_, rfl⟩ | ⟨_, _, rfl⟩ | ⟨_, rfl⟩ | ⟨_, rfl⟩ | ⟨b, bs, rfl⟩ | ⟨_, _, rfl⟩ |
    ⟨_, _, _, rfl⟩ | ⟨_, _, _, rfl⟩
  case inl => revert i; decide
  case inr.inr.inr.inr.inr.inl => exact decide_eq_true (List.cons_ne_nil b bs)
  all_goals rfl

end Sys2Proof.Machine
end

section
/-! PROOFS. The family 10_state, the frames that are returned (spec/10_state.md R33, spec/43_system.md R167). -/

namespace Sys2Proof.Machine

variable {i : Instr} {s t : State} {f : PixelFrame}

/-! ## The frames the codec builds -/

/-- Three bytes for each whole cell (41_codec_rgb565.md R123). -/
theorem convertCells_length (order : ByteOrder) (p : ByteString) :
    (convertCells order p).length = p.length / 2 * 3 := by
  induction p using convertCells.induct with
  | case1 p0 p1 rest ih =>
    rw [convertCells_cons_cons, List.length_append, pixelOfCell_length, ih, List.length_cons, List.length_cons]
    omega
  | case2 p hshort =>
    match p, hshort with
    | [], _ => rfl
    | [_], _ => simp [convertCells]
    | p0 :: p1 :: rest, hshort => exact absurd rfl (hshort p0 p1 rest)

theorem rgb565Result_frames_wf (c : Cfg) (payload : ByteString) (expectedSize : Nat) :
    ∀ f ∈ framesOf (rgb565Result c payload expectedSize), pixelFrameWf f := by
  unfold rgb565Result
  cases hr : reconcile c.shortPolicy payload expectedSize with
  | error r =>
    obtain rfl : r = .sizeMismatch false := by
      rcases reconcile_cases c.shortPolicy payload expectedSize with
        ⟨-, h⟩ | ⟨-, -, h⟩ | ⟨-, -, h⟩ | ⟨-, h⟩ <;> cases hr.symm.trans h
      rfl
    simp [framesOf]
  | ok pt =>
    obtain ⟨p, truncated⟩ := pt
    rcases checkCells_cases c p truncated with ⟨-, h⟩ | ⟨-, -, h⟩ | ⟨hlen, h⟩
    · simp [h, framesOf]
    · simp [h, framesOf]
    · simp only [h, framesOf, List.mem_singleton, forall_eq]
      refine ⟨fun _ => ?_, nofun⟩
      rw [convertCells_length, hlen, Nat.mul_div_cancel _ (by decide)]

theorem flatten_length_of_rowWf {c : Cfg} {rows : List ByteString} (h : ∀ row ∈ rows, rowWf c row = true) :
    rows.flatten.length = rows.length * c.width := by
  rw [List.length_flatten, List.map_congr_left fun row hrow => (rowWf_iff.mp (h row hrow)).1]
  simp

/-- HEIGHT well-formed rows make a well-formed mask frame (42_codec_mask.md R140, 30_encoding.md R81). -/
theorem maskPixelFrame_wf {c : Cfg} {rows : List ByteString} (hlen : rows.length = c.height)
    (h : ∀ row ∈ rows, rowWf c row = true) : pixelFrameWf (maskPixelFrame c rows) := by
  refine ⟨nofun, fun _ => ⟨?_, fun b hb => ?_⟩⟩
  · exact (flatten_length_of_rowWf h).trans (by rw [hlen, Nat.mul_comm]; rfl)
  · obtain ⟨row, hrow, hbrow⟩ := List.mem_flatten.mp hb
    exact (rowWf_iff.mp (h row hrow)).2 b hbrow

theorem acceptLine_frame_wf (hs : maskWf s = true) (line : ByteString) :
    ∀ f ∈ (acceptLine s line).2, pixelFrameWf f := by
  rcases acceptLine_cases s line with ⟨-, h⟩ | ⟨hv, hlen, h⟩ | ⟨-, -, h⟩ <;> rw [h]
  · simp
  · simp only [Option.mem_def, Option.some.injEq, forall_eq']
    exact maskPixelFrame_wf (by simpa using hlen) (rowWf_of_mem_append_rowOfLine hs hv)
  · simp

theorem acceptLines_frames_wf (hs : maskWf s = true) (lines : List ByteString) :
    ∀ f ∈ (acceptLines s lines).2, pixelFrameWf f := by
  induction lines generalizing s with
  | nil => simp
  | cons line rest ih =>
    intro f hf
    rw [acceptLines_cons] at hf
    rcases List.mem_append.mp hf with hhere | hlater
    · exact acceptLine_frame_wf hs line f (Option.mem_toList.mp hhere)
    · exact ih (acceptLine_maskWf hs line) f hlater

/-! ## The frames an operation returns -/

/-- An operation behind the gate returns no frames but those of its body. -/
theorem mem_framesOf_gate {e : Effect} (h : f ∈ framesOf (gate s e).2) : f ∈ framesOf e.2 := by
  rcases gate_cases s e with ⟨-, hg⟩ | ⟨-, hg⟩ <;> rw [hg] at h
  · exact h
  · cases h

theorem feedOp_framesOf (b : Byte) (s : State) : framesOf (feedOp b s).2 = [] := by
  rcases feedOp_cases b s with ⟨-, h⟩ | ⟨-, -, h⟩ | ⟨-, -, h⟩ <;> rw [h] <;> rfl

theorem closeFrame_framesOf (s : State) : framesOf (closeFrame s).2 = [] := by
  rcases closeFrame_cases s with ⟨-, h⟩ | ⟨_, -, h⟩ <;> rw [h] <;> rfl

theorem extract_framesOf (s : State) : framesOf (extract s).2 = [] := by
  rcases extract_cases s with ⟨-, -, h⟩ | ⟨_, _, -, -, -, h⟩ | ⟨_, -, -, -, h⟩ | ⟨-, h⟩ <;> rw [h]
  · rfl
  · rfl
  · exact closeFrame_framesOf _
  · exact closeFrame_framesOf _

theorem tryExtractOp_framesOf (s : State) : framesOf (tryExtractOp s).2 = [] :=
  List.eq_nil_iff_forall_not_mem.mpr fun f hf => by
    have := mem_framesOf_gate (e := extract s) hf
    simp [extract_framesOf] at this

theorem decodeRgb565Op_frames_wf (payload : ByteString) (expectedSize : Nat) (s : State) :
    ∀ f ∈ framesOf (decodeRgb565Op payload expectedSize s).2, pixelFrameWf f :=
  fun f hf => rgb565Result_frames_wf _ _ _ f (mem_framesOf_gate hf)

theorem framesOf_maskRowResult (o : Option PixelFrame) : framesOf (maskRowResult o) = o.toList := by
  cases o <;> rfl

theorem framesOf_decodeMaskResult (fs : List PixelFrame) : framesOf (decodeMaskResult fs) = fs := by
  cases fs <;> rfl

theorem maskRowOp_frames_wf (hs : maskWf s = true) (line : ByteString) :
    ∀ f ∈ framesOf (maskRowOp line s).2, pixelFrameWf f := by
  intro f hf
  have hbody := mem_framesOf_gate hf
  rw [framesOf_maskRowResult, Option.mem_toList] at hbody
  exact acceptLine_frame_wf hs line f hbody

theorem decodeMaskOp_frames_wf (hs : maskWf s = true) (payload : ByteString) :
    ∀ f ∈ framesOf (decodeMaskOp payload s).2, pixelFrameWf f := by
  intro f hf
  have hbody := mem_framesOf_gate hf
  rw [framesOf_decodeMaskResult] at hbody
  exact acceptLines_frames_wf hs _ f hbody

theorem decodeFrameOp_frames_wf (hs : maskWf s = true) (payload : ByteString) :
    ∀ f ∈ framesOf (decodeFrameOp payload s).2, pixelFrameWf f := by
  unfold decodeFrameOp
  cases s.cfg.format
  · exact decodeRgb565Op_frames_wf payload _ s
  · exact decodeMaskOp_frames_wf hs payload

/-- TRY_EXTRACT leaves the rows alone. -/
theorem tryExtractOp_maskWf (hs : maskWf s = true) : maskWf (tryExtractOp s).1 = true :=
  (Evolves.refl.tryExtractOp (i := .tryExtract) rfl).maskWf hs

theorem pipeOp_frames_wf (hs : maskWf s = true) : ∀ f ∈ framesOf (pipeOp s).2, pixelFrameWf f := by
  rcases pipeOp_cases s with ⟨-, h⟩ | ⟨f, -, h⟩ <;> rw [h]
  · simp [tryExtractOp_framesOf]
  · exact decodeFrameOp_frames_wf (tryExtractOp_maskWf hs) _

theorem feednOp_framesOf (bytes : ByteString) (s : State) : (feednOp bytes s).2.flatMap framesOf = [] := by
  induction bytes generalizing s with
  | nil => rfl
  | cons b rest ih =>
    rcases feednOp_cons_cases b rest s with ⟨-, h⟩ | ⟨-, h⟩ <;> rw [h]
    · rfl
    · rw [List.flatMap_cons, feedOp_framesOf, ih]
      rfl

theorem drainLoop_framesOf (fuel : Nat) (s : State) : (drainLoop fuel s).2.flatMap framesOf = [] := by
  induction fuel generalizing s with
  | zero => rfl
  | succ fuel ih =>
    rw [drainLoop_succ]
    split
    · rfl
    · rw [List.flatMap_cons, tryExtractOp_framesOf, ih]
      rfl

/-! ## The frames RUN delivers -/

/-- The host loop accepts no frame but those of the result it is given (43_system.md R167). -/
theorem deliver_framesOf (r : Result) : (deliver r).flatMap framesOfEvent ⊆ framesOf r := by
  unfold deliver
  split
  case h_1 f truncated => cases truncated <;> exact List.Subset.refl _
  case h_2 fs =>
    intro f hf
    obtain ⟨event, hevent, hmem⟩ := List.mem_flatMap.mp hf
    obtain ⟨g, hg, rfl⟩ := List.mem_map.mp hevent
    rwa [List.mem_singleton.mp hmem]
  all_goals exact List.nil_subset _

theorem runTurn_frames_wf (hs : maskWf s = true) :
    ∀ f ∈ (runTurn s).2.1.flatMap framesOfEvent, pixelFrameWf f := by
  rcases runTurn_cases s with ⟨raw, h⟩ | ⟨_, _, h, hnone⟩ <;> rw [h]
  · intro f hf
    exact decodeFrameOp_frames_wf (tryExtractOp_maskWf hs) _ f (deliver_framesOf _ hf)
  · simp [hnone]

theorem runRepeat_frames_wf (hs : maskWf s = true) (fuel : Nat) :
    ∀ f ∈ (runRepeat fuel s).2.1.flatMap framesOfEvent, pixelFrameWf f := by
  induction fuel generalizing s with
  | zero => simp [runRepeat]
  | succ fuel ih =>
    have hnext : maskWf (runTurn s).1 = true := (Evolves.refl.runTurn (i := .pipe) rfl rfl).maskWf hs
    rcases runRepeat_succ_cases fuel s with ⟨_, h⟩ | h <;> rw [h]
    · exact runTurn_frames_wf hs
    · rw [List.flatMap_append, List.forall_mem_append]
      exact ⟨runTurn_frames_wf hs, ih hnext⟩

theorem runChunk_frames_wf (hs : maskWf s = true) (bytes : ByteString) :
    ∀ f ∈ (runChunk bytes s).2.1.flatMap framesOfEvent, pixelFrameWf f :=
  runRepeat_frames_wf ((Evolves.refl.feednOp (i := .feedn bytes) rfl bytes).maskWf hs) _

theorem runOp_frames_wf (hs : maskWf s = true) (reads : List SourceRead) :
    ∀ f ∈ (runOp reads s).2.flatMap framesOfEvent, pixelFrameWf f := by
  induction reads generalizing s with
  | nil => simp
  | cons read rest ih =>
    cases read with
    | closed => simp [framesOfEvent]
    | chunk bytes =>
      have hnext : maskWf (runChunk bytes s).1 = true :=
        (Evolves.refl.runChunk (i := .run []) rfl rfl rfl bytes).maskWf hs
      rcases runOp_chunk_cases bytes rest s with h | h <;> rw [h]
      · exact runChunk_frames_wf hs bytes
      · rw [List.flatMap_append, List.forall_mem_append]
        exact ⟨runChunk_frames_wf hs bytes, ih hnext⟩

/-! ## The frames of a reply -/

theorem resetOp_framesOf (c : Cfg) (s : State) : framesOf (resetOp c s).2 = [] := by
  rcases resetOp_cases c s with ⟨-, h⟩ | ⟨-, h⟩ <;> rw [h] <;> rfl

/-- What is defined on a block that was never reset returns no frame (log 3, log 11). -/
theorem perform_framesOf_of_not_needsReset (hi : needsReset i = false) :
    framesOfReply (perform i s).2 = [] := by
  cases i
  case reset c => exact resetOp_framesOf c s
  case reserved7 | reserved8to15 => rfl
  case feedn chunk => exact feednOp_framesOf chunk s
  case run reads =>
    match reads, hi with
    | [], _ => rfl
    | .closed :: _, _ => rfl
  all_goals cases hi

theorem perform_frames_wf (i : Instr) (hs : maskWf s = true) :
    ∀ f ∈ framesOfReply (perform i s).2, pixelFrameWf f := by
  have hfeedn (bytes : ByteString) : ∀ f ∈ (feednOp bytes s).2.flatMap framesOf, pixelFrameWf f := by
    simp [feednOp_framesOf]
  cases i
  case reset c =>
    rw [perform_framesOf_of_not_needsReset rfl]
    exact nofun
  case feed b => simp [perform, asSingle, framesOfReply, feedOp_framesOf]
  case tryExtract => simp [perform, asSingle, framesOfReply, tryExtractOp_framesOf]
  case decodeRgb565 payload expectedSize => exact decodeRgb565Op_frames_wf payload expectedSize s
  case decodeMask payload => exact decodeMaskOp_frames_wf hs payload
  case maskRow line => exact maskRowOp_frames_wf hs line
  case status | reserved7 | reserved8to15 => exact nofun
  case drain => simp [perform, asSequence, framesOfReply, drainOp, drainLoop_framesOf]
  case pipe => exact pipeOp_frames_wf hs
  case run reads => exact runOp_frames_wf hs reads
  all_goals exact hfeedn _

/-- A completed instruction returns well-formed frames only, from every state that meets the invariant. -/
theorem exec_frames_wf (hs : s.Inv) (h : exec i s = .next t) :
    ∀ f ∈ framesOfReply (perform i s).2, pixelFrameWf f := by
  obtain ⟨hdefined, -⟩ := exec_eq_next_iff.mp h
  cases hc : s.configured
  case true =>
    obtain ⟨-, -, hmask⟩ := hs hc
    exact perform_frames_wf i hmask
  case false =>
    rw [perform_framesOf_of_not_needsReset (by simpa [hc] using hdefined)]
    exact nofun

theorem perform_replies (i : Instr) (s : State) : (perform i s).1.replies = s.replies := by
  rcases perform_cases i s with ⟨c, rfl⟩ | ⟨-, hw⟩
  · rcases resetOp_cases c s with ⟨-, he⟩ | ⟨-, he⟩ <;> rw [perform_reset, asSingle_fst, he]
    rfl
  · obtain ⟨-, -, -, hreplies⟩ := hw.unwritten
    exact hreplies

/-- Settles O52: the one reply a step adds is that of the performed instruction. -/
theorem returnedFramesHaveTheirDeclaredSize : Obligations.ReturnedFramesHaveTheirDeclaredSize := by
  intro s t hs h
  rcases step_eq_next h with rfl | ⟨rest, i, he⟩
  · exact ⟨[], (List.append_nil _).symm, nofun⟩
  · have hwf := exec_frames_wf (s := s.withInbox rest) hs he
    obtain ⟨-, rfl⟩ := exec_eq_next_iff.mp he
    refine ⟨[(perform i (s.withInbox rest)).2], ?_, ?_⟩
    · rw [State.post_replies, perform_replies, State.withInbox_replies]
    · simpa using hwf

end Sys2Proof.Machine
end

section
/-! PROOFS. The family 10_state, TRY_EXTRACT after a `NONE` (spec/10_state.md R35 (e), (f), R59). -/

namespace Sys2Proof.Machine

variable {s : State}

/-- The marker that `sync` awaits is not in the buffer (10_state.md R35 (e), (f)). -/
def State.Awaiting (s : State) : Prop :=
  (s.sync = .seekingStart → s.findStart = none) ∧ (s.sync = .seekingEnd → s.findEnd = none)

/-- An END search that answers `NONE` found no END marker and left the state alone. -/
theorem closeFrame_eq_none (h : (closeFrame s).2 = .none) : s.findEnd = none ∧ (closeFrame s).1 = s := by
  rcases closeFrame_cases s with ⟨hend, he⟩ | ⟨_, -, he⟩
  · exact ⟨hend, by rw [he]⟩
  · rw [he] at h
    cases h

/-- After a `NONE` the awaited marker is absent: each arm that can return it ends a search without a find. -/
theorem extract_awaiting_of_none (h : (extract s).2 = .none) : (extract s).1.Awaiting := by
  rcases extract_cases s with ⟨hsync, hstart, he⟩ | ⟨_, _, -, -, -, he⟩ | ⟨i, -, -, -, he⟩ | ⟨hsync, he⟩ <;>
    rw [he] at h ⊢
  · exact ⟨fun _ => hstart, fun hend => by simp [hsync] at hend⟩
  · cases h
  · obtain ⟨hend, hst⟩ := closeFrame_eq_none h
    rw [hst]
    exact ⟨nofun, fun _ => hend⟩
  · obtain ⟨hend, hst⟩ := closeFrame_eq_none h
    rw [hst]
    exact ⟨fun hstart => by simp [hsync] at hstart, fun _ => hend⟩

/-- While the awaited marker is absent the pseudocode changes nothing and returns `NONE`. -/
theorem extract_of_awaiting (h : s.Awaiting) : extract s = (s, .none) := by
  obtain ⟨hstart, hend⟩ := h
  rcases extract_cases s with ⟨-, -, he⟩ | ⟨_, _, hsync, hi, -⟩ | ⟨_, hsync, hi, -⟩ | ⟨hsync, he⟩
  · exact he
  · simp [hstart hsync] at hi
  · simp [hstart hsync] at hi
  · rw [he, closeFrame, hend hsync]

/-- TRY_EXTRACT that returns `NONE` was not stopped by the gate, and the awaited marker is absent after it. -/
theorem tryExtractOp_awaiting_of_none (h : (tryExtractOp s).2 = .none) :
    (tryExtractOp s).1.fault = .noFault ∧ (tryExtractOp s).1.Awaiting := by
  obtain ⟨n, v, -, hdrop⟩ := tryExtractOp_drops s
  have hfault : (tryExtractOp s).1.fault = s.fault := by simp [hdrop]
  rw [hfault]
  unfold tryExtractOp at h ⊢
  rcases gate_cases s (extract s) with ⟨hf, hg⟩ | ⟨-, hg⟩ <;> rw [hg] at h ⊢
  · exact ⟨hf, extract_awaiting_of_none h⟩
  · cases h

theorem tryExtractOp_of_awaiting (hf : s.fault = .noFault) (h : s.Awaiting) :
    tryExtractOp s = (s, .none) := by
  rw [tryExtractOp, gate_noFault hf, extract_of_awaiting h]

/-- Settles O18: a `NONE` leaves the awaited marker absent, and while it is absent TRY_EXTRACT is idle. -/
theorem tryExtractAfterNoneChangesNothing : Obligations.TryExtractAfterNoneChangesNothing := by
  intro s t h hreply
  obtain ⟨hdefined, rfl⟩ := exec_eq_next_iff.mp h
  have hnone : (tryExtractOp s).2 = .none := by
    rw [State.post_replies, perform_replies] at hreply
    simpa [perform, asSingle] using hreply
  obtain ⟨hf, hstart, hend⟩ := tryExtractOp_awaiting_of_none hnone
  refine ⟨fun hs => find_eq_none_iff_absent.mp (hstart hs), fun he => find_eq_none_iff_absent.mp (hend he),
    exec_eq_next_iff.mpr ⟨?_, ?_⟩⟩
  · obtain ⟨-, hconf, -⟩ := (perform_evolves (i := .tryExtract) rfl s).unwritten
    rwa [State.post_configured, hconf]
  · have hidle := tryExtractOp_of_awaiting (s := (perform .tryExtract s).1.post (perform .tryExtract s).2)
      hf ⟨hstart, hend⟩
    simp only [perform, asSingle] at hidle ⊢
    rw [hidle]
    rfl

end Sys2Proof.Machine
end

section
/-! PROOFS. The family 10_state, noninterference: no operation reads the inbox or the replies (spec/10_state.md
R20, R34, R37; log 1, log 2). -/

namespace Sys2Proof.Machine

variable {α : Type} {i : Instr} (s : State) (inbox : List HostItem) (replies : List Reply)

/-! ## The block on another host -/

/-- The same block, with other operations to come and other results returned. -/
def State.onHost : State := { s with inbox := inbox, replies := replies }

/-- What an operation leaves and returns, its state moved to the other host. -/
def hosted (e : State × α) : State × α := (e.1.onHost inbox replies, e.2)

@[simp] theorem hosted_fst (e : State × α) : (hosted inbox replies e).1 = e.1.onHost inbox replies := rfl
@[simp] theorem hosted_snd (e : State × α) : (hosted inbox replies e).2 = e.2 := rfl

@[simp] theorem State.onHost_cfg : (s.onHost inbox replies).cfg = s.cfg := rfl
@[simp] theorem State.onHost_sync : (s.onHost inbox replies).sync = s.sync := rfl
@[simp] theorem State.onHost_maskRows : (s.onHost inbox replies).maskRows = s.maskRows := rfl
@[simp] theorem State.onHost_bufFull : (s.onHost inbox replies).bufFull = s.bufFull := rfl
@[simp] theorem State.onHost_findStart : (s.onHost inbox replies).findStart = s.findStart := rfl
@[simp] theorem State.onHost_findEnd : (s.onHost inbox replies).findEnd = s.findEnd := rfl
@[simp] theorem State.onHost_strayEnd (k : Nat) : (s.onHost inbox replies).strayEnd k = s.strayEnd k := rfl
@[simp] theorem State.onHost_drainFuel : (s.onHost inbox replies).drainFuel = s.drainFuel := rfl
@[simp] theorem State.onHost_openFrame (k : Nat) :
    (s.onHost inbox replies).openFrame k = (s.openFrame k).onHost inbox replies := rfl
@[simp] theorem State.onHost_setMaskRows (rows : List ByteString) :
    (s.onHost inbox replies).setMaskRows rows = (s.setMaskRows rows).onHost inbox replies := rfl

/-! ## The operations -/

theorem gate_onHost (e : Effect) :
    gate (s.onHost inbox replies) (hosted inbox replies e) = hosted inbox replies (gate s e) := by
  rcases gate_cases s e with ⟨hf, hg⟩ | ⟨hf, hg⟩ <;> rw [hg]
  · exact gate_noFault (s := s.onHost inbox replies) hf _
  · exact gate_bufOverflow (s := s.onHost inbox replies) hf _

theorem resetOp_onHost (c : Cfg) :
    resetOp c (s.onHost inbox replies) = hosted inbox replies (resetOp c s) := by
  unfold resetOp
  split <;> rfl

theorem feedOp_onHost (b : Byte) :
    feedOp b (s.onHost inbox replies) = hosted inbox replies (feedOp b s) := by
  unfold feedOp
  rw [← gate_onHost, State.onHost_bufFull]
  cases s.bufFull <;> rfl

theorem closeFrame_onHost :
    closeFrame (s.onHost inbox replies) = hosted inbox replies (closeFrame s) := by
  unfold closeFrame
  rw [State.onHost_findEnd]
  cases s.findEnd <;> rfl

theorem extract_onHost : extract (s.onHost inbox replies) = hosted inbox replies (extract s) := by
  unfold extract
  rw [State.onHost_sync, State.onHost_findStart]
  cases s.sync with
  | seekingEnd => exact closeFrame_onHost s inbox replies
  | seekingStart =>
    cases s.findStart with
    | none => rfl
    | some k =>
      simp only [State.onHost_strayEnd, State.onHost_openFrame, closeFrame_onHost]
      cases s.strayEnd k <;> rfl

theorem tryExtractOp_onHost :
    tryExtractOp (s.onHost inbox replies) = hosted inbox replies (tryExtractOp s) := by
  rw [tryExtractOp, extract_onHost, gate_onHost, tryExtractOp]

theorem decodeRgb565Op_onHost (payload : ByteString) (expectedSize : Nat) :
    decodeRgb565Op payload expectedSize (s.onHost inbox replies) =
      hosted inbox replies (decodeRgb565Op payload expectedSize s) :=
  gate_onHost s inbox replies (s, rgb565Result s.cfg payload expectedSize)

theorem acceptLine_onHost (line : ByteString) :
    acceptLine (s.onHost inbox replies) line = hosted inbox replies (acceptLine s line) := by
  rcases acceptLine_cases s line with ⟨hv, he⟩ | ⟨hv, hh, he⟩ | ⟨hv, hh, he⟩ <;> rw [he]
  · simp [acceptLine, hv, hosted]
  · simp [acceptLine, hv, hh, hosted]
  · simp [acceptLine, hv, hh, hosted]

theorem acceptLines_onHost (lines : List ByteString) :
    acceptLines (s.onHost inbox replies) lines = hosted inbox replies (acceptLines s lines) := by
  induction lines generalizing s with
  | nil => rfl
  | cons line rest ih =>
    simp only [acceptLines_cons, acceptLine_onHost, hosted_fst, hosted_snd, ih]
    rfl

theorem maskRowOp_onHost (line : ByteString) :
    maskRowOp line (s.onHost inbox replies) = hosted inbox replies (maskRowOp line s) := by
  unfold maskRowOp
  rw [acceptLine_onHost]
  exact gate_onHost s inbox replies ((acceptLine s line).1, _)

theorem decodeMaskOp_onHost (payload : ByteString) :
    decodeMaskOp payload (s.onHost inbox replies) = hosted inbox replies (decodeMaskOp payload s) := by
  unfold decodeMaskOp
  rw [acceptLines_onHost]
  exact gate_onHost s inbox replies ((acceptLines s (splitLines payload)).1, _)

theorem decodeFrameOp_onHost (payload : ByteString) :
    decodeFrameOp payload (s.onHost inbox replies) = hosted inbox replies (decodeFrameOp payload s) := by
  unfold decodeFrameOp
  rw [State.onHost_cfg]
  cases s.cfg.format
  · exact decodeRgb565Op_onHost s inbox replies payload _
  · exact decodeMaskOp_onHost s inbox replies payload

/-! ## The sequences of operations -/

theorem feednOp_onHost (bytes : ByteString) :
    feednOp bytes (s.onHost inbox replies) = hosted inbox replies (feednOp bytes s) := by
  induction bytes generalizing s with
  | nil => rfl
  | cons b rest ih =>
    simp only [feednOp, feedOp_onHost, hosted_fst, hosted_snd, ih]
    split <;> rfl

theorem drainLoop_onHost (fuel : Nat) :
    drainLoop fuel (s.onHost inbox replies) = hosted inbox replies (drainLoop fuel s) := by
  induction fuel generalizing s with
  | zero => rfl
  | succ fuel ih =>
    simp only [drainLoop_succ, tryExtractOp_onHost, hosted_fst, hosted_snd, ih]
    split <;> rfl

theorem drainOp_onHost : drainOp (s.onHost inbox replies) = hosted inbox replies (drainOp s) :=
  drainLoop_onHost s inbox replies s.drainFuel

theorem pipeOp_onHost : pipeOp (s.onHost inbox replies) = hosted inbox replies (pipeOp s) := by
  simp only [pipeOp, tryExtractOp_onHost, hosted_fst, hosted_snd, decodeFrameOp_onHost]
  cases frameOf (tryExtractOp s).2 <;> rfl

theorem runTurn_onHost : runTurn (s.onHost inbox replies) = hosted inbox replies (runTurn s) := by
  simp only [runTurn, tryExtractOp_onHost, hosted_fst, hosted_snd, decodeFrameOp_onHost]
  split <;> rfl

theorem runRepeat_onHost (fuel : Nat) :
    runRepeat fuel (s.onHost inbox replies) = hosted inbox replies (runRepeat fuel s) := by
  induction fuel generalizing s with
  | zero => rfl
  | succ fuel ih =>
    simp only [runRepeat_succ, runTurn_onHost, hosted_fst, hosted_snd, ih]
    cases (runTurn s).2.2 <;> rfl

theorem runOp_onHost (reads : List SourceRead) :
    runOp reads (s.onHost inbox replies) = hosted inbox replies (runOp reads s) := by
  induction reads generalizing s with
  | nil => rfl
  | cons read rest ih =>
    cases read with
    | closed => rfl
    | chunk bytes =>
      simp only [runOp_chunk, feednOp_onHost, State.onHost_drainFuel, runRepeat_onHost, hosted_fst,
        hosted_snd, ih]
      split <;> rfl

/-! ## The instructions -/

theorem asSingle_hosted (e : Effect) :
    asSingle (hosted inbox replies e) = hosted inbox replies (asSingle e) := rfl

theorem asSequence_hosted (e : State × List Result) :
    asSequence (hosted inbox replies e) = hosted inbox replies (asSequence e) := rfl

/-- An instruction does the same on another host, and returns the same. -/
theorem perform_onHost (i : Instr) :
    perform i (s.onHost inbox replies) = hosted inbox replies (perform i s) := by
  cases i
  case run reads => simp only [perform, runOp_onHost]; rfl
  case status | reserved7 | reserved8to15 => rfl
  all_goals
    simp only [perform, asSingle_hosted, asSequence_hosted, resetOp_onHost, feedOp_onHost,
      tryExtractOp_onHost, decodeRgb565Op_onHost, decodeMaskOp_onHost, maskRowOp_onHost, feednOp_onHost,
      drainOp_onHost, pipeOp_onHost]

/-- An instruction leaves the inbox alone: on the block's own host it leaves what that host had. -/
theorem perform_inbox (i : Instr) : (perform i s).1.inbox = s.inbox :=
  congrArg (fun e => e.1.inbox) (perform_onHost s s.inbox s.replies i)

/-- Settles O47. -/
theorem repliesAndInboxAreNeverRead : Obligations.RepliesAndInboxAreNeverRead := by
  intro i s t h
  obtain ⟨hdefined, rfl⟩ := exec_eq_next_iff.mp h
  refine ⟨perform_inbox s i, (perform i s).2, ?_, fun inbox replies => exec_eq_next_iff.mpr ⟨hdefined, ?_⟩⟩
  · rw [State.post_replies, perform_replies]
  · exact (congrArg (fun e => e.1.post e.2) (perform_onHost s inbox replies i)).symm

end Sys2Proof.Machine
end

section
/-! PROOFS. The family 20_memory: the step, one equation for each thing the inbox can hold (spec/20_memory.md R58,
R63, spec/60_exceptions.md R201). -/

namespace Sys2Proof.Machine

variable {s : State} {item : HostItem} {rest : List HostItem}

theorem step_of_inbox_nil (hs : s.inbox = []) : step s = .next s := by
  simp only [step, hs]

theorem step_of_decode_ok {i : Instr} (hs : s.inbox = item :: rest) (hd : decode item = .ok i) :
    step s = exec i (s.withInbox rest) := by
  simp only [step, hs, hd]

theorem step_of_decode_error {why : Reject} (hs : s.inbox = item :: rest) (hd : decode item = .error why) :
    step s = .refused (.notAnInstruction why) := by
  simp only [step, hs, hd]

/-- Settles O6, by what the inbox holds and what its oldest item decodes to. -/
theorem stepRunsTheDecodedInstruction : Obligations.StepRunsTheDecodedInstruction := by
  intro s
  refine ⟨step_of_inbox_nil, fun item rest hs => ⟨fun i hd => ?ok, fun why hd => ?error⟩⟩
  case ok => exact step_of_decode_ok hs hd
  case error => exact step_of_decode_error hs hd

end Sys2Proof.Machine
end

section
/-! PROOFS. The family 30_encoding, the decoders: one equation per command code, what each token decodes to, and the
round trip of every operand (spec/30_encoding.md R71 to R91, spec/10_state.md R27). -/

namespace Sys2Proof

/-! ## The cfg lines -/

@[simp] theorem byteOrderOfBit_bitOfByteOrder (order : ByteOrder) :
    byteOrderOfBit (bitOfByteOrder order) = order := by cases order <;> rfl

@[simp] theorem shortPolicyOfBit_bitOfShortPolicy (policy : ShortPolicy) :
    shortPolicyOfBit (bitOfShortPolicy policy) = policy := by cases policy <;> rfl

@[simp] theorem formatOfBit_bitOfFormat (format : PayloadFormat) :
    formatOfBit (bitOfFormat format) = format := by cases format <;> rfl

/-- The cfg lines carry every configuration whose numbers have the widths of 10_state.md R27. -/
theorem decodeCfg_encodeCfg {c : Cfg} (h : c.encodable = true) : decodeCfg (encodeCfg c) = c := by
  obtain ⟨hwidth, hheight, hbpp⟩ := encodable_iff.mp h
  simp [decodeCfg, encodeCfg, markerOfWord_wordOfMarker, Nat.mod_eq_of_lt, hwidth, hheight, hbpp]

/-- Cfg lines hold numbers of no other widths. -/
theorem decodeCfg_encodable (c : CfgLines) : (decodeCfg c).encodable = true :=
  encodable_iff.mpr ⟨c.width.isLt, c.height.isLt, c.bpp.isLt⟩

/-! ## The command decoder, one equation per code (30_encoding.md R85) -/

theorem withByteString_eq_ok {bytes : ByteString} {i j : Instr} :
    withByteString bytes j = .ok i ↔ operandFits bytes = true ∧ i = j := by
  cases h : operandFits bytes <;> simp [withByteString, h, eq_comm]

section
variable {c : Command}

theorem decodeCommand_reset (h : c.op = 0) : decodeCommand c = .ok (.reset (decodeCfg c.cfg)) := by
  simp [decodeCommand, h]

theorem decodeCommand_feed (h : c.op = 1) : decodeCommand c = .ok (.feed c.byte) := by
  simp [decodeCommand, h]

theorem decodeCommand_tryExtract (h : c.op = 2) : decodeCommand c = .ok .tryExtract := by
  simp [decodeCommand, h]

theorem decodeCommand_decodeRgb565 (h : c.op = 3) :
    decodeCommand c = withByteString c.bytes (.decodeRgb565 c.bytes c.size.toNat) := by
  simp [decodeCommand, h]

theorem decodeCommand_decodeMask (h : c.op = 4) :
    decodeCommand c = withByteString c.bytes (.decodeMask c.bytes) := by
  simp [decodeCommand, h]

theorem decodeCommand_maskRow (h : c.op = 5) :
    decodeCommand c = withByteString c.bytes (.maskRow c.bytes) := by
  simp [decodeCommand, h]

theorem decodeCommand_status (h : c.op = 6) : decodeCommand c = .ok .status := by
  simp [decodeCommand, h]

theorem decodeCommand_reserved7 (h : c.op = 7) : decodeCommand c = .ok .reserved7 := by
  simp [decodeCommand, h]

theorem decodeCommand_reserved8to15 (h : 8 ≤ c.op.toNat) :
    decodeCommand c = .ok (.reserved8to15 (c.op.extractLsb' 0 3)) := by
  have hne (k : BitVec 4) (hk : k.toNat < 8) : c.op ≠ k := by
    rintro rfl
    omega
  simp [decodeCommand, hne]

end

/-- The sixteen codes: the eight with a row each, and the reserved block. -/
theorem code_cases (op : BitVec 4) :
    op = 0 ∨ op = 1 ∨ op = 2 ∨ op = 3 ∨ op = 4 ∨ op = 5 ∨ op = 6 ∨ op = 7 ∨ 8 ≤ op.toNat := by
  bv_omega

/-- The command decoder is total over the codes (30_encoding.md R88). -/
theorem decodeCommand_total {c : Command} (h : operandFits c.bytes = true) :
    ∃ i, decodeCommand c = .ok i := by
  rcases code_cases c.op with hop | hop | hop | hop | hop | hop | hop | hop | hop
  · exact ⟨_, decodeCommand_reset hop⟩
  · exact ⟨_, decodeCommand_feed hop⟩
  · exact ⟨_, decodeCommand_tryExtract hop⟩
  · exact ⟨_, (decodeCommand_decodeRgb565 hop).trans (withByteString_fits h _)⟩
  · exact ⟨_, (decodeCommand_decodeMask hop).trans (withByteString_fits h _)⟩
  · exact ⟨_, (decodeCommand_maskRow hop).trans (withByteString_fits h _)⟩
  · exact ⟨_, decodeCommand_status hop⟩
  · exact ⟨_, decodeCommand_reserved7 hop⟩
  · exact ⟨_, decodeCommand_reserved8to15 hop⟩

/-- The low three bits of a code of the reserved block are its distance from the block's first code. -/
theorem extractLsb'_toNat_of_eight_le {op : BitVec 4} (h : 8 ≤ op.toNat) :
    (op.extractLsb' 0 3).toNat = op.toNat - 8 := by
  have := op.isLt
  rw [BitVec.extractLsb'_toNat, Nat.shiftRight_zero]
  omega

theorem one_append_toNat (low : BitVec 3) : (1#1 ++ low : BitVec 4).toNat = 8 + low.toNat :=
  Laws.EncodedForm.Pattern.command.inj (Laws.EncodedForm.reserved8to15 low)

/-- The code of a reserved instruction gives back the low bits it was made with. -/
theorem extractLsb'_one_append (low : BitVec 3) : (1#1 ++ low : BitVec 4).extractLsb' 0 3 = low := by
  have hcode := one_append_toNat low
  apply BitVec.eq_of_toNat_eq
  rw [extractLsb'_toNat_of_eight_le (by omega)]
  omega

/-! ## The token decoder -/

/-- Two bytes are a cell in the sender's byte order. -/
theorem decodeToken_pair (order : ByteOrder) (p0 p1 : Byte) :
    decodeToken (bitOfByteOrder order) [p0, p1] = .ok (cellToken order (cellValue order p0 p1)) := by
  rw [decodeToken, byteOrderOfBit_bitOfByteOrder]

/-- A cell's two bytes are read back as the cell that was sent (30_encoding.md R76). -/
theorem decodeToken_cellBytes (order : ByteOrder) (v : BitVec 16) :
    decodeToken (bitOfByteOrder order) (cellBytes order v) = .ok (cellToken order v) := by
  obtain ⟨p0, p1, hbytes, hvalue⟩ := cellBytes_value order v
  rw [hbytes, decodeToken_pair, hvalue]

theorem cellToken_bigFirst (r5 : BitVec 5) (g6 : BitVec 6) (b5 : BitVec 5) :
    cellToken .bigFirst (cellOfChannels r5 g6 b5) = .wireCellBig r5 g6 b5 := by simp [cellToken]

theorem cellToken_littleFirst (r5 : BitVec 5) (g6 : BitVec 6) (b5 : BitVec 5) :
    cellToken .littleFirst (cellOfChannels r5 g6 b5) = .wireCellLittle r5 g6 b5 := by simp [cellToken]

/-! ## The round trip -/

/-- Settles O1, instruction by instruction: a command by the equation of its code, a cell by its bytes. -/
theorem decodingAnEncodedInstructionGivesItBack : Obligations.DecodingAnEncodedInstructionGivesItBack := by
  intro i h
  cases i with
  | reset c =>
    calc decode (encode (.reset c))
      _ = .ok (.reset (decodeCfg (encodeCfg c))) := decodeCommand_reset rfl
      _ = .ok (.reset c) := by rw [decodeCfg_encodeCfg h]
  | feed b => exact decodeCommand_feed rfl
  | tryExtract => exact decodeCommand_tryExtract rfl
  | decodeRgb565 payload expectedSize =>
    obtain ⟨hfits, hsize⟩ : operandFits payload = true ∧ expectedSize < 2 ^ 32 := by
      simpa [Instr.wellFormed] using h
    calc decode (encode (.decodeRgb565 payload expectedSize))
      _ = withByteString payload (.decodeRgb565 payload (BitVec.ofNat 32 expectedSize).toNat) :=
        decodeCommand_decodeRgb565 rfl
      _ = .ok (.decodeRgb565 payload expectedSize) := by
        rw [withByteString_fits hfits, BitVec.toNat_ofNat, Nat.mod_eq_of_lt hsize]
  | decodeMask payload => exact (decodeCommand_decodeMask rfl).trans (withByteString_fits h _)
  | maskRow line => exact (decodeCommand_maskRow rfl).trans (withByteString_fits h _)
  | status => exact decodeCommand_status rfl
  | reserved7 => exact decodeCommand_reserved7 rfl
  | reserved8to15 low =>
    have hcode : 8 ≤ (1#1 ++ low : BitVec 4).toNat := by
      rw [one_append_toNat]
      omega
    calc decode (encode (.reserved8to15 low))
      _ = .ok (.reserved8to15 ((1#1 ++ low : BitVec 4).extractLsb' 0 3)) := decodeCommand_reserved8to15 hcode
      _ = .ok (.reserved8to15 low) := by rw [extractLsb'_one_append]
  | feedn | drain | pipe | run => rfl
  | wireCellBig r5 g6 b5 =>
    exact (decodeToken_cellBytes .bigFirst _).trans (congrArg _ (cellToken_bigFirst r5 g6 b5))
  | wireCellLittle r5 g6 b5 =>
    exact (decodeToken_cellBytes .littleFirst _).trans (congrArg _ (cellToken_littleFirst r5 g6 b5))
  | wireStart | wireEnd | wireMaskChar0 | wireMaskChar1 | wireMaskNewline => rfl

/-! ## What the decoders answer is well-formed -/

theorem wellFormed_of_decodeCommand {c : Command} {i : Instr} (h : decodeCommand c = .ok i) :
    i.wellFormed = true := by
  rcases code_cases c.op with hop | hop | hop | hop | hop | hop | hop | hop | hop
  · rw [decodeCommand_reset hop] at h; cases h; exact decodeCfg_encodable c.cfg
  · rw [decodeCommand_feed hop] at h; cases h; rfl
  · rw [decodeCommand_tryExtract hop] at h; cases h; rfl
  · rw [decodeCommand_decodeRgb565 hop, withByteString_eq_ok] at h
    obtain ⟨hfits, rfl⟩ := h
    have hsize : c.size.toNat < sizeLimit := c.size.isLt
    simp [Instr.wellFormed, hfits, hsize]
  · rw [decodeCommand_decodeMask hop, withByteString_eq_ok] at h
    obtain ⟨hfits, rfl⟩ := h
    exact hfits
  · rw [decodeCommand_maskRow hop, withByteString_eq_ok] at h
    obtain ⟨hfits, rfl⟩ := h
    exact hfits
  · rw [decodeCommand_status hop] at h; cases h; rfl
  · rw [decodeCommand_reserved7 hop] at h; cases h; rfl
  · rw [decodeCommand_reserved8to15 hop] at h; cases h; rfl

theorem cellToken_wellFormed (order : ByteOrder) (v : BitVec 16) : (cellToken order v).wellFormed = true := by
  cases order <;> rfl

theorem wellFormed_of_decodeToken {order : BitVec 1} {bytes : ByteString} {i : Instr}
    (h : decodeToken order bytes = .ok i) : i.wellFormed = true := by
  unfold decodeToken at h
  split at h
  case h_1 c => split_ifs at h <;> cases h <;> rfl
  case h_2 p0 p1 => cases h; exact cellToken_wellFormed _ _
  case h_3 => split_ifs at h <;> cases h <;> rfl
  case h_4 => cases h

theorem decodeScript_wellFormed (line : ScriptLine) : (decodeScript line).wellFormed = true := by
  cases line <;> rfl

/-- Settles O2, by the kind of item that was decoded. -/
theorem decodedInstructionsAreWellFormed : Obligations.DecodedInstructionsAreWellFormed := by
  intro item i h
  cases item with
  | command c => exact wellFormed_of_decodeCommand h
  | token order bytes => exact wellFormed_of_decodeToken h
  | script line => cases h; exact decodeScript_wellFormed line

/-- Settles O3: the decoder's one answer is, at each code, the one that the code's equation gives. -/
theorem everyCommandCodeNamesItsOperation : Obligations.EveryCommandCodeNamesItsOperation := by
  intro c hlength
  have hfits := operandFits_iff.mpr hlength
  obtain ⟨i, hi⟩ := decodeCommand_total hfits
  have answer_unique {j : Instr} (hj : decodeCommand c = .ok j) : i = j := Except.ok.inj (hi.symm.trans hj)
  refine ⟨i, hi, fun h => answer_unique (decodeCommand_reset h), fun h => answer_unique (decodeCommand_feed h),
    fun h => answer_unique (decodeCommand_tryExtract h),
    fun h => answer_unique ((decodeCommand_decodeRgb565 h).trans (withByteString_fits hfits _)),
    fun h => answer_unique ((decodeCommand_decodeMask h).trans (withByteString_fits hfits _)),
    fun h => answer_unique ((decodeCommand_maskRow h).trans (withByteString_fits hfits _)),
    fun h => answer_unique (decodeCommand_status h), fun h => answer_unique (decodeCommand_reserved7 h),
    fun h => ⟨_, answer_unique (decodeCommand_reserved8to15 h), extractLsb'_toNat_of_eight_le h⟩⟩

/-- A word of the opcode table that stands for a well-formed instruction's encoding decodes to it. -/
theorem decodeTableWord_of_tableItem {nbits w : Nat} {i : Instr} (hitem : tableItem nbits w = encode i)
    (hi : i.wellFormed = true) : decodeTableWord nbits w = some i := by
  rw [decodeTableWord, hitem, decodingAnEncodedInstructionGivesItBack i hi]
  rfl

/-- Settles O4: each of the twelve words is the encoding of its row, so that O1 decodes it. -/
theorem tableWordsDecodeToTheirRows : Obligations.TableWordsDecodeToTheirRows := by
  refine ⟨?_, ?_, ?_, ?_, ?_, ?_, ?_, ?_, ?_, ?_, ?_, ?_⟩
  all_goals exact decodeTableWord_of_tableItem (by decide) (by decide)

/-! ## Where the channels of a cell lie -/

theorem append_byte_toNat (high low : Byte) :
    (high ++ low : BitVec 16).toNat = high.toNat * 256 + low.toNat := by
  rw [BitVec.toNat_append, ← Nat.shiftLeft_add_eq_or_of_lt low.isLt, Nat.shiftLeft_eq]

/-- The channels of a cell by its high and its low byte (30_encoding.md R76). -/
theorem channels_toNat (high low : Byte) :
    (cellRed (high ++ low)).toNat = high.toNat / 8 ∧
    (cellGreen (high ++ low)).toNat = high.toNat % 8 * 8 + low.toNat / 32 ∧
    (cellBlue (high ++ low)).toNat = low.toNat % 32 := by
  have hvalue := append_byte_toNat high low
  have hhigh := high.isLt
  have hlow := low.isLt
  simp only [cellRed, cellGreen, cellBlue, BitVec.extractLsb'_toNat, Nat.shiftRight_eq_div_pow, hvalue]
  omega

/-- Settles O5: either byte order reads a high and a low byte, and the channels lie in these. -/
theorem cellTokensSplitIntoTheirChannels : Obligations.CellTokensSplitIntoTheirChannels := by
  intro p0 p1
  exact ⟨⟨_, _, _, decodeToken_pair .bigFirst p0 p1, channels_toNat p0 p1⟩,
    ⟨_, _, _, decodeToken_pair .littleFirst p0 p1, channels_toNat p1 p0⟩⟩

end Sys2Proof
end

section
/-! PROOFS. The family 30_encoding, the wire tokens: a chunk fed to an unbounded block, the bytes of each token, and
a cell that is fed and decoded (spec/30_encoding.md R71 to R80, spec/40_synchronizer.md R102,
spec/41_codec_rgb565.md R121 to R123). -/

namespace Sys2Proof.Machine

variable {s : State} {i : Instr} {bytes : ByteString}

/-! ## Bytes that arrive at an unbounded block -/

/-- `buf <- buf ++ bytes`, the writes of a chunk of FEEDs that all have room (40_synchronizer.md R102). -/
def State.appendBytes (s : State) (bytes : ByteString) : State := { s with buf := s.buf ++ bytes }

@[simp] theorem State.appendBytes_nil (s : State) : s.appendBytes [] = s := by simp [State.appendBytes]

@[simp] theorem State.appendBytes_cfg (s : State) (bytes : ByteString) : (s.appendBytes bytes).cfg = s.cfg := rfl
@[simp] theorem State.appendBytes_buf (s : State) (bytes : ByteString) :
    (s.appendBytes bytes).buf = s.buf ++ bytes := rfl

@[simp] theorem State.appendByte_appendBytes (s : State) (b : Byte) (bytes : ByteString) :
    (s.appendByte b).appendBytes bytes = s.appendBytes (b :: bytes) := by
  simp [State.appendBytes, State.appendByte]

theorem feedOp_of_unbounded (hfault : s.fault = .noFault) (hcap : s.bufCap = none) (b : Byte) :
    feedOp b s = (s.appendByte b, .ok .nothing) := by
  simp [feedOp, hfault, hcap]

/-- Every byte of a chunk is appended, and each FEED returns `OK`: by induction on the chunk. -/
theorem feednOp_of_unbounded (hfault : s.fault = .noFault) (hcap : s.bufCap = none) (bytes : ByteString) :
    feednOp bytes s = (s.appendBytes bytes, List.replicate bytes.length (.ok .nothing)) := by
  induction bytes generalizing s with
  | nil => simp
  | cons b rest ih =>
    have hrest := ih (s := s.appendByte b) hfault hcap
    simp [feednOp, feedOp_of_unbounded hfault hcap, hrest, List.replicate_succ]

/-- An instruction that feeds bytes, on an unfaulted block of unbounded capacity. -/
theorem exec_of_perform_feednOp (hready : s.Ready) (hcap : s.bufCap = none)
    (hfeeds : perform i s = asSequence (feednOp bytes s)) :
    exec i s = .next ((s.appendBytes bytes).post
      (.sequence (List.replicate bytes.length (.ok .nothing)))) := by
  obtain ⟨hconfigured, hfault⟩ := hready
  rw [exec_eq, hfeeds, feednOp_of_unbounded hfault hcap]
  simp [hconfigured, asSequence]

/-! ## The bytes of a token -/

/-- The high byte of a cell is the red channel and the upper half of green, the low byte the rest
(30_encoding.md R75). -/
theorem cellOfChannels_bytes (r5 : BitVec 5) (g6 : BitVec 6) (b5 : BitVec 5) :
    (cellOfChannels r5 g6 b5).extractLsb' 8 8 = BitVec.ofNat 8 (r5.toNat * 8 + g6.toNat / 8) ∧
    (cellOfChannels r5 g6 b5).extractLsb' 0 8 = BitVec.ofNat 8 (g6.toNat % 8 * 32 + b5.toNat) := by
  obtain ⟨hhigh, hlow⟩ := Laws.EncodedForm.bytes_toNat (cellOfChannels r5 g6 b5)
  have hvalue := Laws.EncodedForm.cellOfChannels_toNat r5 g6 b5
  have hr := r5.isLt
  have hg := g6.isLt
  have hb := b5.isLt
  constructor <;> apply BitVec.eq_of_toNat_eq <;> rw [BitVec.toNat_ofNat] <;> omega

/-- Settles O16: each token feeds its bytes, and the bytes of a cell are those of its channels. -/
theorem wireTokensFeedTheirBytes : Obligations.WireTokensFeedTheirBytes := by
  intro s r g b hready hcap i bytes hmem
  obtain ⟨hhigh, hlow⟩ := cellOfChannels_bytes r g b
  have hfeeds : perform i s = asSequence (feednOp (bytes.map (BitVec.ofNat 8)) s) := by
    simp only [List.mem_cons, Prod.mk.injEq, List.not_mem_nil, or_false] at hmem
    rcases hmem with ⟨rfl, rfl⟩ | ⟨rfl, rfl⟩ | ⟨rfl, rfl⟩ | ⟨rfl, rfl⟩ | ⟨rfl, rfl⟩ | ⟨rfl, rfl⟩ |
      ⟨rfl, rfl⟩
    · rfl
    · rfl
    · rfl
    · rfl
    · rfl
    · simp [perform, cellBytes, hhigh, hlow]
    · simp [perform, cellBytes, hhigh, hlow]
  rw [exec_of_perform_feednOp hready hcap hfeeds, List.length_map]
  rfl

/-! ## A cell that is fed and decoded -/

/-- A payload of exactly the declared size is converted without a warning (41_codec_rgb565.md R121 to R123). -/
theorem rgb565Result_of_exact_size {c : Cfg} {payload : ByteString} {size : Nat}
    (hpayload : payload.length = size) (hsize : size = c.width * c.height * 2) :
    rgb565Result c payload size =
      .ok (.rgbFrame ⟨c.width, c.height, .rgb888, convertCells c.byteOrder payload⟩ false) := by
  have hreconcile : reconcile c.shortPolicy payload size = .ok (payload, false) := by
    simp [reconcile, hpayload]
  have hcells : checkCells c payload false = .ok () := by
    simp [checkCells, hpayload, hsize]
  simp [rgb565Result, hreconcile, hcells]

/-- The two bytes of a cell convert to its own pixel in the byte order they were sent in. -/
theorem convertCells_cellBytes (order : ByteOrder) (v : BitVec 16) :
    convertCells order (cellBytes order v) = pixelOfCell v := by
  obtain ⟨p0, p1, hbytes, hvalue⟩ := cellBytes_value order v
  rw [hbytes, convertCells_cons_cons, hvalue, convertCells_nil, List.append_nil]

theorem cellBytes_length (order : ByteOrder) (v : BitVec 16) : (cellBytes order v).length = 2 := by
  cases order <;> rfl

theorem exec_decodeRgb565_of_ready (hready : s.Ready) (payload : ByteString) (size : Nat) :
    exec (.decodeRgb565 payload size) s = .next (s.post (.single (rgb565Result s.cfg payload size))) := by
  obtain ⟨hconfigured, hfault⟩ := hready
  rw [exec_eq]
  simp [hconfigured, perform, asSingle, decodeRgb565Op, hfault]

theorem pixelOfCell_cellOfChannels (r5 : BitVec 5) (g6 : BitVec 6) (b5 : BitVec 5) :
    pixelOfCell (cellOfChannels r5 g6 b5) = [exp5 r5, exp6 g6, exp5 b5] := by simp [pixelOfCell]

/-- A buffer that holds one cell of the configured byte order, decoded as a frame of one pixel. -/
theorem exec_decodeRgb565_cell {r5 : BitVec 5} {g6 : BitVec 6} {b5 : BitVec 5} (hready : s.Ready)
    (hwidth : s.cfg.width = 1) (hheight : s.cfg.height = 1)
    (hbuf : s.buf = cellBytes s.cfg.byteOrder (cellOfChannels r5 g6 b5)) :
    exec (.decodeRgb565 s.buf 2) s =
      .next (s.post (.single (.ok (.rgbFrame ⟨1, 1, .rgb888, [exp5 r5, exp6 g6, exp5 b5]⟩ false)))) := by
  have hlength : s.buf.length = 2 := by rw [hbuf, cellBytes_length]
  have hsize : 2 = s.cfg.width * s.cfg.height * 2 := by rw [hwidth, hheight]
  rw [exec_decodeRgb565_of_ready hready, rgb565Result_of_exact_size hlength hsize, hbuf,
    convertCells_cellBytes, pixelOfCell_cellOfChannels, hwidth, hheight]

/-- The cell token of a byte order feeds the cell's bytes in that order. -/
theorem perform_cellToken (order : ByteOrder) (r5 : BitVec 5) (g6 : BitVec 6) (b5 : BitVec 5) (s : State) :
    perform (cellToken order (cellOfChannels r5 g6 b5)) s =
      asSequence (feednOp (cellBytes order (cellOfChannels r5 g6 b5)) s) := by
  cases order
  · rw [cellToken_bigFirst, perform]
  · rw [cellToken_littleFirst, perform]

/-- Settles O31: the token fills the empty buffer with the cell's two bytes, which are the whole frame. -/
theorem cellTokenDecodesToItsOwnChannels : Obligations.CellTokenDecodesToItsOwnChannels := by
  intro r g b s i hready hcap hempty hwidth hheight htoken
  have hi : i = cellToken s.cfg.byteOrder (cellOfChannels r g b) := by
    rcases htoken with ⟨horder, rfl⟩ | ⟨horder, rfl⟩ <;> rw [horder]
    · exact (cellToken_bigFirst r g b).symm
    · exact (cellToken_littleFirst r g b).symm
  subst hi
  refine ⟨_, exec_of_perform_feednOp hready hcap (perform_cellToken s.cfg.byteOrder r g b s), ?_⟩
  exact exec_decodeRgb565_cell hready hwidth hheight (by simp [hempty])

end Sys2Proof.Machine
end

section
/-! PROOFS. The family 40_synchronizer, instructions issued one after another: on a block that was reset they all
complete, and what they leave and return is theirs whatever was returned before (spec/20_memory.md R63; log 2). -/

namespace Sys2Proof.Machine

variable {i : Instr} {s : State}

/-! ## One instruction on a block that was reset -/

theorem exec_of_configured (hs : s.configured = true) (i : Instr) :
    exec i s = .next ((perform i s).1.post (perform i s).2) :=
  exec_eq_next_iff.mpr ⟨by rw [hs, Bool.true_or], rfl⟩

theorem perform_configured (hs : s.configured = true) (i : Instr) : (perform i s).1.configured = true := by
  rcases perform_cases i s with ⟨c, rfl⟩ | ⟨-, hw⟩
  · rcases resetOp_cases c s with ⟨-, h⟩ | ⟨-, h⟩ <;> rw [perform_reset, asSingle_fst, h]
    · exact State.load_configured s c
    · exact hs
  · obtain ⟨-, hconf, -⟩ := hw.unwritten
    rw [hconf, hs]

theorem perform_bufCap (i : Instr) (s : State) : (perform i s).1.bufCap = s.bufCap := by
  rcases perform_cases i s with ⟨c, rfl⟩ | ⟨-, hw⟩
  · exact resetOp_bufCap c s
  · exact hw.unwritten.1

/-- What was returned before stays returned, and decides nothing (10_state.md R31). -/
theorem perform_post (i : Instr) (s : State) (r : Reply) :
    perform i (s.post r) = ((perform i s).1.post r, (perform i s).2) := by
  have hmoved : perform i (s.post r) = hosted s.inbox (s.replies ++ [r]) (perform i s) :=
    perform_onHost s s.inbox (s.replies ++ [r]) i
  rw [hmoved, ← perform_inbox s i, ← perform_replies i s]
  rfl

/-! ## A list of instructions -/

/-- What the instructions of a list leave and return, performed one after another. -/
def performAll : List Instr → State → State × List Reply
  | [], s => (s, [])
  | i :: rest, s =>
    let here := perform i s
    let later := performAll rest here.1
    (later.1, here.2 :: later.2)

@[simp] theorem performAll_nil (s : State) : performAll [] s = (s, []) := rfl

@[simp] theorem performAll_cons (i : Instr) (is : List Instr) (s : State) :
    performAll (i :: is) s =
      ((performAll is (perform i s).1).1, (perform i s).2 :: (performAll is (perform i s).1).2) := rfl

theorem performAll_append (is js : List Instr) (s : State) :
    performAll (is ++ js) s = ((performAll js (performAll is s).1).1,
      (performAll is s).2 ++ (performAll js (performAll is s).1).2) := by
  induction is generalizing s with
  | nil => rfl
  | cons i is ih => simp only [List.cons_append, performAll_cons, ih]

theorem performAll_bufCap (is : List Instr) (s : State) : (performAll is s).1.bufCap = s.bufCap := by
  induction is generalizing s with
  | nil => rfl
  | cons i is ih => exact (ih _).trans (perform_bufCap i s)

theorem performAll_replies (is : List Instr) (s : State) : (performAll is s).1.replies = s.replies := by
  induction is generalizing s with
  | nil => rfl
  | cons i is ih => exact (ih _).trans (perform_replies i s)

theorem performAll_unfaulted (hcap : s.bufCap = none) (hs : s.fault = .noFault) (is : List Instr) :
    (performAll is s).1.fault = .noFault := by
  induction is generalizing s with
  | nil => exact hs
  | cons i is ih =>
    obtain ⟨hcap', hs'⟩ := perform_unbounded i hcap hs
    exact ih hcap' hs'

theorem performAll_post (is : List Instr) (s : State) (r : Reply) :
    performAll is (s.post r) = ((performAll is s).1.post r, (performAll is s).2) := by
  induction is generalizing s with
  | nil => rfl
  | cons i is ih => simp only [performAll_cons, perform_post, ih]

/-- Hands replies to the host, in order (log 2). -/
def State.postAll (s : State) (rs : List Reply) : State := { s with replies := s.replies ++ rs }

@[simp] theorem State.postAll_replies (s : State) (rs : List Reply) :
    (s.postAll rs).replies = s.replies ++ rs := rfl
@[simp] theorem State.postAll_withoutReplies (s : State) (rs : List Reply) :
    (s.postAll rs).withoutReplies = s.withoutReplies := rfl
@[simp] theorem State.post_withoutReplies (s : State) (r : Reply) :
    (s.post r).withoutReplies = s.withoutReplies := rfl
@[simp] theorem State.postAll_nil (s : State) : s.postAll [] = s := by simp [State.postAll]
@[simp] theorem State.post_postAll (s : State) (r : Reply) (rs : List Reply) :
    (s.post r).postAll rs = s.postAll (r :: rs) := by simp [State.post, State.postAll]

/-- Every list of instructions completes on a block that was reset: by induction on the list, the replies of the
earlier instructions deciding nothing for the later ones. -/
theorem issue_of_configured (hs : s.configured = true) (is : List Instr) :
    issue is s = some ((performAll is s).1.postAll (performAll is s).2) := by
  induction is generalizing s with
  | nil => rw [performAll_nil, State.postAll_nil]; rfl
  | cons i is ih =>
    have hnext := ih (s := (perform i s).1.post (perform i s).2) (perform_configured hs i)
    rw [performAll_post, State.post_postAll] at hnext
    simp only [issue, exec_of_configured hs i]
    exact hnext

/-! ## The result codes of each operation -/

/-- Behind the gate an operation returns the codes of its body, and `FAULT` (40_synchronizer.md R100). -/
theorem resultCode_gate_mem {e : Effect} {codes : List (BitVec 3)} (h : resultCode e.2 ∈ codes) :
    resultCode (gate s e).2 ∈ codes ++ [7] := by
  rcases gate_cases s e with ⟨-, hg⟩ | ⟨-, hg⟩ <;> rw [hg]
  · exact List.mem_append_left _ h
  · exact List.mem_append_right _ (List.mem_singleton.mpr rfl)

theorem resultCode_resetOp_mem (c : Cfg) (s : State) : resultCode (resetOp c s).2 ∈ [1, 6] := by
  rcases resetOp_cases c s with ⟨-, h⟩ | ⟨-, h⟩ <;> simp [h, resultCode]

theorem resultCode_feedOp_mem (b : Byte) (s : State) : resultCode (feedOp b s).2 ∈ [1, 7] := by
  rcases feedOp_cases b s with ⟨-, h⟩ | ⟨-, -, h⟩ | ⟨-, -, h⟩ <;> simp [h, resultCode]

theorem resultCode_closeFrame_mem (s : State) : resultCode (closeFrame s).2 ∈ [0, 1] := by
  rcases closeFrame_cases s with ⟨-, h⟩ | ⟨_, -, h⟩ <;> simp [h, resultCode]

theorem resultCode_extract_mem (s : State) : resultCode (extract s).2 ∈ [0, 1, 2] := by
  have hclose (u : State) : resultCode (closeFrame u).2 ∈ [0, 1, 2] :=
    List.mem_append_left [2] (resultCode_closeFrame_mem u)
  rcases extract_cases s with ⟨-, -, h⟩ | ⟨_, _, -, -, -, h⟩ | ⟨_, -, -, -, h⟩ | ⟨-, h⟩ <;> rw [h]
  · simp [resultCode]
  · simp [resultCode]
  · exact hclose _
  · exact hclose s

theorem resultCode_tryExtractOp_mem (s : State) : resultCode (tryExtractOp s).2 ∈ [0, 1, 2, 7] :=
  resultCode_gate_mem (resultCode_extract_mem s)

theorem resultCode_rgb565Result_mem (c : Cfg) (payload : ByteString) (size : Nat) :
    resultCode (rgb565Result c payload size) ∈ [1, 3, 4] := by
  unfold rgb565Result
  cases hr : reconcile c.shortPolicy payload size with
  | error r =>
    rcases reconcile_cases c.shortPolicy payload size with ⟨-, h⟩ | ⟨-, -, h⟩ | ⟨-, -, h⟩ | ⟨-, h⟩ <;>
      cases hr.symm.trans h
    simp [resultCode]
  | ok reconciled =>
    obtain ⟨p, truncated⟩ := reconciled
    rcases checkCells_cases c p truncated with ⟨-, h⟩ | ⟨-, -, h⟩ | ⟨-, h⟩ <;> simp [h, resultCode]

theorem resultCode_decodeRgb565Op_mem (payload : ByteString) (size : Nat) (s : State) :
    resultCode (decodeRgb565Op payload size s).2 ∈ [1, 3, 4, 7] :=
  resultCode_gate_mem (e := (s, _)) (resultCode_rgb565Result_mem s.cfg payload size)

theorem resultCode_maskRowOp_mem (line : ByteString) (s : State) :
    resultCode (maskRowOp line s).2 ∈ [0, 1, 7] := by
  refine resultCode_gate_mem (codes := [0, 1]) ?_
  dsimp only
  cases (acceptLine s line).2 <;> simp [maskRowResult, resultCode]

theorem resultCode_decodeMaskOp_mem (payload : ByteString) (s : State) :
    resultCode (decodeMaskOp payload s).2 ∈ [0, 1, 7] := by
  refine resultCode_gate_mem (codes := [0, 1]) ?_
  dsimp only
  cases (acceptLines s (splitLines payload)).2 <;> simp [decodeMaskResult, resultCode]

/-- PIPE returns the codes of TRY_EXTRACT and of the two decodes (43_system.md R164). -/
theorem resultCode_pipeOp_mem (s : State) : resultCode (pipeOp s).2 ∈ [0, 1, 2, 3, 4, 7] := by
  rcases pipeOp_cases s with ⟨-, h⟩ | ⟨f, -, h⟩ <;> rw [h]
  · exact List.subset_def.mp (by decide) (resultCode_tryExtractOp_mem s)
  · unfold decodeFrameOp
    cases (tryExtractOp s).1.cfg.format
    · exact List.subset_def.mp (by decide) (resultCode_decodeRgb565Op_mem _ _ _)
    · exact List.subset_def.mp (by decide) (resultCode_decodeMaskOp_mem _ _)

/-- The one result an instruction returns has one of its own codes; the others return a list. -/
theorem resultCode_perform_mem {r : Result} (h : (perform i s).2 = .single r) : resultCode r ∈ codesOf i := by
  cases i <;> cases h
  case reset.refl c => exact resultCode_resetOp_mem c s
  case feed.refl b => exact resultCode_feedOp_mem b s
  case tryExtract.refl => exact resultCode_tryExtractOp_mem s
  case decodeRgb565.refl payload size => exact resultCode_decodeRgb565Op_mem payload size s
  case decodeMask.refl payload => exact resultCode_decodeMaskOp_mem payload s
  case maskRow.refl line => exact resultCode_maskRowOp_mem line s
  case status.refl => exact List.mem_singleton.mpr rfl
  case reserved7.refl => exact List.mem_singleton.mpr rfl
  case reserved8to15.refl => exact List.mem_singleton.mpr rfl
  case pipe.refl => exact resultCode_pipeOp_mem s

/-- Settles O46: the reply of a completed instruction is the one it was performed with. -/
theorem operationsReturnOnlyTheirOwnCodes : Obligations.OperationsReturnOnlyTheirOwnCodes := by
  intro i s t r h hreply
  obtain ⟨-, rfl⟩ := exec_eq_next_iff.mp h
  rw [State.post_replies, perform_replies] at hreply
  exact resultCode_perform_mem (List.singleton_inj.mp (List.append_cancel_left hreply))

end Sys2Proof.Machine
end

section
/-! PROOFS. The family 40_synchronizer, FEED and FEEDN: the three things a FEED does, and a chunk that fits, that
overflows, or comes in two pieces (spec/40_synchronizer.md R100 to R102). -/

namespace Sys2Proof.Machine

variable {s : State} {b : Byte}

/-! ## FEED -/

theorem feedOp_of_room (hf : s.fault = .noFault) (hroom : s.bufCap ≠ some s.buf.length) (b : Byte) :
    feedOp b s = (s.appendByte b, .ok .nothing) := by
  simp [feedOp, hf, State.bufFull, hroom]

theorem feedOp_of_full (hf : s.fault = .noFault) (hfull : s.bufCap = some s.buf.length) (b : Byte) :
    feedOp b s = (s.setFault .bufOverflow, .fault) := by
  simp [feedOp, hf, State.bufFull, hfull]

theorem feedOp_of_faulted (hf : s.fault = .bufOverflow) (b : Byte) : feedOp b s = (s, .fault) :=
  gate_bufOverflow hf _

/-- A FEED that returns `FAULT` leaves a faulted block. -/
theorem feedOp_faulted_of_fault (h : (feedOp b s).2 = .fault) : (feedOp b s).1.fault = .bufOverflow := by
  rcases feedOp_cases b s with ⟨hf, he⟩ | ⟨-, -, he⟩ | ⟨-, -, he⟩ <;> rw [he] at h ⊢
  · exact hf
  · exact State.setFault_fault s .bufOverflow
  · cases h

/-- Settles O12: the operation by the gate and by whether the buffer is full. -/
theorem feedAppendsOneByteOrOverflows : Obligations.FeedAppendsOneByteOrOverflows := by
  refine ⟨fun _ hop => decodeCommand_feed hop, fun b s hs => ?_⟩
  have hexec : exec (.feed b) s = .next ((feedOp b s).1.post (.single (feedOp b s).2)) :=
    exec_of_configured hs (.feed b)
  refine ⟨fun hf hroom => ?_, fun hf hfull => ?_, fun hf => ?_⟩
  · rw [hexec, feedOp_of_room hf hroom]; rfl
  · rw [hexec, feedOp_of_full hf hfull]; rfl
  · rw [hexec, feedOp_of_faulted hf]; rfl

/-! ## FEEDN -/

/-- A chunk there is room for is appended whole: by induction on the chunk. -/
theorem feednOp_of_room {chunk : ByteString} (hf : s.fault = .noFault)
    (hroom : ∀ cap, s.bufCap = some cap → s.buf.length + chunk.length ≤ cap) :
    feednOp chunk s = (s.appendBytes chunk, List.replicate chunk.length (.ok .nothing)) := by
  induction chunk generalizing s with
  | nil => simp
  | cons b rest ih =>
    have hnotFull : s.bufCap ≠ some s.buf.length := fun hfull => by simpa using hroom _ hfull
    have hrest := ih (s := s.appendByte b) hf fun cap hcap => by
      have := hroom cap hcap
      simp only [List.length_cons, State.appendByte_buf, List.length_append, List.length_nil] at this ⊢
      omega
    simp [feednOp, feedOp_of_room hf hnotFull, hrest, List.replicate_succ]

/-- Of a longer chunk the bytes there is room for are appended and the next one overflows: by induction on the
room. -/
theorem feednOp_of_overflow {chunk : ByteString} {room : Nat} (hf : s.fault = .noFault)
    (hcap : s.bufCap = some (s.buf.length + room)) (hlt : room < chunk.length) :
    feednOp chunk s = ((s.appendBytes (chunk.take room)).setFault .bufOverflow,
      List.replicate room (.ok .nothing) ++ [Result.fault]) := by
  induction room generalizing s chunk with
  | zero =>
    obtain ⟨b, rest, rfl⟩ := List.exists_cons_of_length_pos hlt
    simp [feednOp, feedOp_of_full hf hcap]
  | succ room ih =>
    obtain ⟨b, rest, rfl⟩ := List.exists_cons_of_length_pos (Nat.zero_lt_of_lt hlt)
    have hnotFull : s.bufCap ≠ some s.buf.length := by simp [hcap]
    have hrest := ih (s := s.appendByte b) (chunk := rest) hf
      (by simp [hcap]; omega) (by simpa using hlt)
    simp [feednOp, feedOp_of_room hf hnotFull, hrest, List.replicate_succ]

/-- Settles O14, by whether there is room for the chunk. -/
theorem feednAppendsTheChunkUpToOverflow : Obligations.FeednAppendsTheChunkUpToOverflow := by
  intro chunk s ⟨hs, hf⟩
  have hexec : exec (.feedn chunk) s = .next ((feednOp chunk s).1.post (.sequence (feednOp chunk s).2)) :=
    exec_of_configured hs (.feedn chunk)
  refine ⟨fun hroom => ?_, fun room hcap hlt => ?_⟩
  · rw [hexec, feednOp_of_room hf hroom]; rfl
  · rw [hexec, feednOp_of_overflow hf hcap hlt]; rfl

theorem feednOp_of_faulted (hf : s.fault = .bufOverflow) (chunk : ByteString) : (feednOp chunk s).1 = s := by
  cases chunk with
  | nil => rfl
  | cons b rest => simp [feednOp, feedOp_of_faulted hf]

/-- A chunk fed in two pieces leaves what the whole leaves: an overflow in the first piece leaves a faulted block,
which the second piece does not change. -/
theorem feednOp_append (c1 c2 : ByteString) (s : State) :
    (feednOp (c1 ++ c2) s).1 = (feednOp c2 (feednOp c1 s).1).1 := by
  induction c1 generalizing s with
  | nil => rfl
  | cons b rest ih =>
    rw [List.cons_append]
    by_cases h : (feedOp b s).2 = .fault
    · simp only [feednOp, h, if_true]
      exact (feednOp_of_faulted (feedOp_faulted_of_fault h) c2).symm
    · simp only [feednOp, h, if_false]
      exact ih (feedOp b s).1

/-- Settles O15: replies apart, a list of instructions leaves what its operations leave. -/
theorem feednOfTwoPiecesIsFeednOfTheWhole : Obligations.FeednOfTwoPiecesIsFeednOfTheWhole := by
  intro c1 c2 s hs
  refine ⟨_, _, issue_of_configured hs _, issue_of_configured hs _, ?_⟩
  rw [State.postAll_withoutReplies, State.postAll_withoutReplies]
  exact congrArg State.withoutReplies (feednOp_append c1 c2 s)

end Sys2Proof.Machine
end

section
/-! PROOFS. The family 40_synchronizer, TRY_EXTRACT: one equation for each arm of its pseudocode, and what bytes
appended first do to it (spec/40_synchronizer.md R103 to R110). -/

namespace Sys2Proof.Machine

variable {s : State} {i e : Nat}

/-! ## One equation per arm -/

theorem closeFrame_of_none (hend : s.findEnd = none) : closeFrame s = (s, .none) := by
  simp [closeFrame, hend]

theorem closeFrame_of_some (hend : s.findEnd = some e) :
    closeFrame s = ((s.dropFront (e + markerLength)).setSync .seekingStart,
      .ok (.rawFrame ⟨s.buf.take e, e, s.base, s.base + e⟩)) := by
  simp [closeFrame, hend]

theorem extract_of_noStart (hsync : s.sync = .seekingStart) (hstart : s.findStart = none) :
    extract s = (s, .none) := by
  simp [extract, hsync, hstart]

theorem extract_of_strayEnd (hsync : s.sync = .seekingStart) (hstart : s.findStart = some i)
    (hstray : s.strayEnd i = some e) :
    extract s = (s.dropFront (e + markerLength), .malformedOrdering) := by
  simp [extract, hsync, hstart, hstray]

theorem extract_of_start (hsync : s.sync = .seekingStart) (hstart : s.findStart = some i)
    (hstray : s.strayEnd i = none) : extract s = closeFrame (s.openFrame i) := by
  simp [extract, hsync, hstart, hstray]

theorem extract_of_seekingEnd (hsync : s.sync = .seekingEnd) : extract s = closeFrame s := by
  simp [extract, hsync]

/-- Where no END marker begins before the START marker, the ordering test passes. -/
theorem strayEnd_eq_none_of_forall (h : ∀ j < i, ¬ OccursAt s.endBytes s.buf j) : s.strayEnd i = none := by
  refine strayEnd_eq_none_iff.mpr fun e he => ?_
  by_contra hlt
  exact h e (by omega) (find_eq_some_iff_earliestAt.mp he).1

theorem tryExtractOp_of_unfaulted (hf : s.fault = .noFault) : tryExtractOp s = extract s := gate_noFault hf _

theorem exec_tryExtract_of_ready (hready : s.Ready) :
    exec .tryExtract s = .next ((extract s).1.post (.single (extract s).2)) := by
  obtain ⟨hs, hf⟩ := hready
  rw [exec_of_configured hs, ← tryExtractOp_of_unfaulted hf]
  rfl

/-- Settles O17: the gate, then the arm that `sync` and the two searches choose. -/
theorem tryExtractFollowsItsAlgorithm : Obligations.TryExtractFollowsItsAlgorithm := by
  refine ⟨fun _ hop => decodeCommand_tryExtract hop, fun s hs hf => ?faulted, fun s hready => ?_⟩
  case faulted =>
    have hop : tryExtractOp s = (s, .fault) := gate_bufOverflow hf _
    rw [exec_of_configured hs, perform, hop]
    rfl
  rw [exec_tryExtract_of_ready hready]
  refine ⟨fun hsync hstart => ?noStart, fun i e hsync hi he hlt => ?strayEnd,
    fun i hsync hi hnone hend => ?opened, fun i e hsync hi hnone he => ?extracted,
    fun hsync hend => ?waiting, fun e hsync he => ?closed⟩
  case noStart => rw [extract_of_noStart hsync (find_eq_none_iff_absent.mpr hstart)]; rfl
  case strayEnd =>
    rw [extract_of_strayEnd hsync (find_eq_some_iff_earliestAt.mpr hi)
      (strayEnd_eq_some_iff.mpr ⟨find_eq_some_iff_earliestAt.mpr he, hlt⟩)]
    rfl
  case opened =>
    rw [extract_of_start hsync (find_eq_some_iff_earliestAt.mpr hi) (strayEnd_eq_none_of_forall hnone),
      closeFrame_of_none (find_eq_none_iff_absent.mpr hend)]
    rfl
  case extracted =>
    rw [extract_of_start hsync (find_eq_some_iff_earliestAt.mpr hi) (strayEnd_eq_none_of_forall hnone),
      closeFrame_of_some (find_eq_some_iff_earliestAt.mpr he), State.openFrame,
      dropFront_setSync_dropFront_setSync]
    rfl
  case waiting => rw [extract_of_seekingEnd hsync, closeFrame_of_none (find_eq_none_iff_absent.mpr hend)]; rfl
  case closed =>
    rw [extract_of_seekingEnd hsync, closeFrame_of_some (find_eq_some_iff_earliestAt.mpr he)]
    rfl

/-! ## Bytes appended first -/

section
variable (x : ByteString)

theorem appendBytes_findStart (h : s.findStart = some i) : (s.appendBytes x).findStart = some i :=
  find_append_of_some h x

theorem appendBytes_findEnd (h : s.findEnd = some e) : (s.appendBytes x).findEnd = some e :=
  find_append_of_some h x

/-- An END marker that begins before the START marker ends within the bytes that were there. -/
theorem appendBytes_strayEnd (h : s.findStart = some i) : (s.appendBytes x).strayEnd i = s.strayEnd i := by
  have hle := findStart_le h
  cases hs : s.strayEnd i with
  | some e =>
    obtain ⟨hend, hlt⟩ := strayEnd_eq_some_iff.mp hs
    exact strayEnd_eq_some_iff.mpr ⟨appendBytes_findEnd x hend, hlt⟩
  | none =>
    refine strayEnd_eq_none_iff.mpr fun e he => ?_
    by_contra hlt
    have hend : s.findEnd = some e := find_of_append he (by rw [markerBytes_length]; omega)
    exact hlt (strayEnd_eq_none_iff.mp hs e hend)

theorem appendBytes_dropFront {n : Nat} (h : n ≤ s.buf.length) :
    (s.appendBytes x).dropFront n = (s.dropFront n).appendBytes x := by
  simp [State.appendBytes, State.dropFront, List.drop_append_of_le_length h]

theorem appendBytes_openFrame (h : s.findStart = some i) :
    (s.appendBytes x).openFrame i = (s.openFrame i).appendBytes x := by
  rw [State.openFrame, appendBytes_dropFront x (findStart_le h)]
  rfl

/-- A frame that is complete in the buffer is closed alike. -/
theorem appendBytes_closeFrame (h : s.findEnd = some e) :
    closeFrame (s.appendBytes x) = ((closeFrame s).1.appendBytes x, (closeFrame s).2) := by
  have hle := findEnd_le h
  rw [closeFrame_of_some h, closeFrame_of_some (appendBytes_findEnd x h), appendBytes_dropFront x hle,
    State.appendBytes_buf, List.take_append_of_le_length (by omega)]
  rfl

/-- A search that finds what it looks for finds the same with more bytes behind it (40_synchronizer.md R110). -/
theorem extract_appendBytes_of_ne_none (h : (extract s).2 ≠ .none) :
    extract (s.appendBytes x) = ((extract s).1.appendBytes x, (extract s).2) := by
  have hclosed {u : State} (hu : (closeFrame u).2 ≠ .none) :
      closeFrame (u.appendBytes x) = ((closeFrame u).1.appendBytes x, (closeFrame u).2) := by
    rcases closeFrame_cases u with ⟨-, hc⟩ | ⟨e, hend, -⟩
    · simp [hc] at hu
    · exact appendBytes_closeFrame x hend
  rcases extract_cases s with ⟨-, -, he⟩ | ⟨i, e, hsync, hstart, hstray, he⟩ | ⟨i, hsync, hstart, hstray, he⟩ |
    ⟨hsync, he⟩
  · simp [he] at h
  · rw [extract_of_strayEnd (s := s.appendBytes x) hsync (appendBytes_findStart x hstart)
      (by rw [appendBytes_strayEnd x hstart, hstray]), he,
      appendBytes_dropFront x (findEnd_le (strayEnd_eq_some_iff.mp hstray).1)]
  · rw [he] at h ⊢
    rw [extract_of_start (s := s.appendBytes x) hsync (appendBytes_findStart x hstart)
      (by rw [appendBytes_strayEnd x hstart, hstray]), appendBytes_openFrame x hstart, hclosed h]
  · rw [he] at h ⊢
    rw [extract_of_seekingEnd (s := s.appendBytes x) hsync, hclosed h]

/-- A search that ended in `NONE` did early what the search over more bytes does first: at most it dropped the START
marker and what stood before it (40_synchronizer.md R110). -/
theorem extract_appendBytes_of_none (h : (extract s).2 = .none) :
    extract (s.appendBytes x) = extract ((extract s).1.appendBytes x) := by
  rcases extract_cases s with ⟨-, -, he⟩ | ⟨i, e, -, -, -, he⟩ | ⟨i, hsync, hstart, hstray, he⟩ | ⟨-, he⟩
  · rw [he]
  · simp [he] at h
  · rw [he] at h ⊢
    obtain ⟨-, hsame⟩ := closeFrame_eq_none h
    rw [hsame, extract_of_start (s := s.appendBytes x) hsync (appendBytes_findStart x hstart)
      (by rw [appendBytes_strayEnd x hstart, hstray]), appendBytes_openFrame x hstart]
    exact (extract_of_seekingEnd rfl).symm
  · rw [he] at h ⊢
    rw [(closeFrame_eq_none h).2]

end

theorem extract_drops (hf : s.fault = .noFault) :
    ∃ n v, n ≤ s.buf.length ∧ (extract s).1 = (s.dropFront n).setSync v := by
  rw [← tryExtractOp_of_unfaulted hf]
  exact tryExtractOp_drops s

/-- The search leaves the fault gate open. -/
theorem extract_unfaulted (hf : s.fault = .noFault) : (extract s).1.fault = .noFault := by
  obtain ⟨n, v, -, he⟩ := extract_drops hf
  rw [he]
  exact hf

theorem extract_configured (hready : s.Ready) : (extract s).1.configured = true := by
  obtain ⟨n, v, -, he⟩ := extract_drops hready.2
  rw [he]
  exact hready.1

theorem extract_replies (hf : s.fault = .noFault) : (extract s).1.replies = s.replies := by
  obtain ⟨n, v, -, he⟩ := extract_drops hf
  rw [he]
  rfl

/-- Settles O19, by whether the search found what it looked for. -/
theorem appendedBytesDoNotChangeAnExtraction : Obligations.AppendedBytesDoNotChangeAnExtraction := by
  intro s t r x hready hexec hreply
  rw [exec_tryExtract_of_ready hready] at hexec
  cases hexec
  have hreplies := extract_replies hready.2
  obtain rfl : r = (extract s).2 := by
    rw [State.post_replies, hreplies] at hreply
    simpa using (List.append_cancel_left hreply).symm
  have hmore : exec .tryExtract { s with buf := s.buf ++ x } =
      .next ((extract (s.appendBytes x)).1.post (.single (extract (s.appendBytes x)).2)) :=
    exec_tryExtract_of_ready (s := s.appendBytes x) hready
  rw [hmore]
  refine ⟨fun hne => ?_, fun hnone => ?_⟩
  · rw [extract_appendBytes_of_ne_none x hne]
    rfl
  · have hnext : { (extract s).1.post (.single (extract s).2) with
        buf := (extract s).1.buf ++ x, replies := s.replies } = (extract s).1.appendBytes x := by
      rw [← hreplies]
      rfl
    rw [extract_appendBytes_of_none x hnone]
    refine .trans ?_ (congrArg (exec .tryExtract) hnext).symm
    exact (exec_tryExtract_of_ready (s := (extract s).1.appendBytes x) ⟨extract_configured hready, extract_unfaulted hready.2⟩).symm

end Sys2Proof.Machine
end

section
/-! PROOFS. The family 40_synchronizer, DRAIN: what it repeats, and that the frames do not depend on how a stream is
cut into chunks (spec/40_synchronizer.md R108, R111). -/

namespace Sys2Proof.Machine

variable {s t : State}

/-! ## One attempt -/

theorem closeFrame_none_or_shrinks (s : State) :
    (closeFrame s).2 = .none ∨
    isExtraction (closeFrame s).2 = true ∧ (closeFrame s).1.buf.length < s.buf.length := by
  rcases closeFrame_cases s with ⟨-, h⟩ | ⟨e, hend, h⟩ <;> rw [h]
  · exact .inl rfl
  · have hle := findEnd_le hend
    refine .inr ⟨rfl, ?_⟩
    simp only [State.setSync_buf, State.dropFront_buf, List.length_drop, markerLength] at hle ⊢
    omega

/-- An attempt answers `NONE`, or it extracts and takes bytes off the buffer (40_synchronizer.md R108). -/
theorem extract_none_or_shrinks (s : State) :
    (extract s).2 = .none ∨
    isExtraction (extract s).2 = true ∧ (extract s).1.buf.length < s.buf.length := by
  rcases extract_cases s with ⟨-, -, h⟩ | ⟨i, e, -, -, hstray, h⟩ | ⟨i, -, -, -, h⟩ | ⟨-, h⟩ <;> rw [h]
  · exact .inl rfl
  · have hle := findEnd_le (strayEnd_eq_some_iff.mp hstray).1
    refine .inr ⟨rfl, ?_⟩
    simp only [State.dropFront_buf, List.length_drop, markerLength] at hle ⊢
    omega
  · refine (closeFrame_none_or_shrinks (s.openFrame i)).imp_right (And.imp_right fun hlt => hlt.trans_le ?_)
    simp [State.openFrame]
  · exact closeFrame_none_or_shrinks s

theorem endsDrain_of_isExtraction {r : Result} (h : isExtraction r = true) : endsDrain r = false := by
  cases r with
  | ok | malformedOrdering => rfl
  | _ => cases h

/-! ## The loop of DRAIN -/

theorem drainLoop_succ_of_none (hf : s.fault = .noFault) (h : (extract s).2 = .none) (fuel : Nat) :
    drainLoop (fuel + 1) s = ((extract s).1, []) := by
  rw [drainLoop_succ, tryExtractOp_of_unfaulted hf, h]
  rfl

theorem drainLoop_succ_of_isExtraction (hf : s.fault = .noFault) (h : isExtraction (extract s).2 = true)
    (fuel : Nat) : drainLoop (fuel + 1) s =
      ((drainLoop fuel (extract s).1).1, (extract s).2 :: (drainLoop fuel (extract s).1).2) := by
  rw [drainLoop_succ, tryExtractOp_of_unfaulted hf, endsDrain_of_isExtraction h]
  rfl

/-- Fuel beyond the length of the buffer is never used up: by induction on it, each attempt that goes on taking
bytes off the buffer (40_synchronizer.md R108). -/
theorem drainLoop_eq_of_length_lt {fuel fuel' : Nat} (hf : s.fault = .noFault) (h : s.buf.length < fuel)
    (h' : s.buf.length < fuel') : drainLoop fuel s = drainLoop fuel' s := by
  induction fuel generalizing s fuel' with
  | zero => omega
  | succ fuel ih =>
    obtain ⟨fuel', rfl⟩ := Nat.exists_eq_succ_of_ne_zero (Nat.ne_zero_of_lt h')
    rcases extract_none_or_shrinks s with hnone | ⟨hext, hlt⟩
    · rw [drainLoop_succ_of_none hf hnone, drainLoop_succ_of_none hf hnone]
    · rw [drainLoop_succ_of_isExtraction hf hext, drainLoop_succ_of_isExtraction hf hext,
        ih (extract_unfaulted hf) (by omega) (fuel' := fuel') (by omega)]

theorem drainOp_of_none (hf : s.fault = .noFault) (h : (extract s).2 = .none) :
    drainOp s = ((extract s).1, []) := drainLoop_succ_of_none hf h _

theorem drainOp_of_isExtraction (hf : s.fault = .noFault) (h : isExtraction (extract s).2 = true) :
    drainOp s = ((drainOp (extract s).1).1, (extract s).2 :: (drainOp (extract s).1).2) := by
  have hlt : (extract s).1.buf.length < s.buf.length := by
    rcases extract_none_or_shrinks s with hnone | ⟨-, hlt⟩
    · rw [hnone] at h
      cases h
    · exact hlt
  have hfuel : drainLoop s.buf.length (extract s).1 = drainOp (extract s).1 :=
    drainLoop_eq_of_length_lt (extract_unfaulted hf) hlt (Nat.lt_succ_self _)
  rw [← hfuel]
  exact drainLoop_succ_of_isExtraction hf h _

/-- DRAIN by its own recursion: what holds where the search answers `NONE`, and where it extracts if it holds after
the extraction, holds on every unfaulted block. -/
theorem drain_induction {P : State → Prop}
    (stops : ∀ s, s.fault = .noFault → (extract s).2 = .none → P s)
    (extracts : ∀ s, s.fault = .noFault → isExtraction (extract s).2 = true → P (extract s).1 → P s)
    (hf : s.fault = .noFault) : P s := by
  induction hn : s.buf.length using Nat.strong_induction_on generalizing s with
  | _ n ih =>
    rcases extract_none_or_shrinks s with hnone | ⟨hext, hlt⟩
    · exact stops s hf hnone
    · exact extracts s hf hext (ih _ (hn ▸ hlt) (extract_unfaulted hf) rfl)

/-- DRAIN yields RawFrames and MALFORMED_ORDERING results only. -/
theorem isExtraction_of_mem_drainOp (hf : s.fault = .noFault) : ∀ r ∈ (drainOp s).2, isExtraction r = true := by
  refine drain_induction (P := fun u => ∀ r ∈ (drainOp u).2, isExtraction r = true) ?stops ?extracts hf
  case stops =>
    intro u hu hnone
    rw [drainOp_of_none hu hnone]
    exact nofun
  case extracts =>
    intro u hu hext ih
    rw [drainOp_of_isExtraction hu hext]
    exact List.forall_mem_cons.mpr ⟨hext, ih⟩

theorem perform_tryExtract (hf : s.fault = .noFault) :
    perform .tryExtract s = ((extract s).1, .single (extract s).2) := by
  rw [perform, tryExtractOp_of_unfaulted hf, asSingle]

/-- One TRY_EXTRACT for each result of a DRAIN, and the one that returns `NONE`. -/
theorem performAll_tryExtract_eq_drainOp (hf : s.fault = .noFault) :
    performAll (List.replicate ((drainOp s).2.length + 1) .tryExtract) s =
      ((drainOp s).1, (drainOp s).2.map Reply.single ++ [Reply.single .none]) := by
  refine drain_induction (P := fun u => performAll (List.replicate ((drainOp u).2.length + 1) .tryExtract) u =
    ((drainOp u).1, (drainOp u).2.map Reply.single ++ [Reply.single .none])) ?stops ?extracts hf
  case stops =>
    intro u hu hnone
    simp [drainOp_of_none hu hnone, perform_tryExtract hu, hnone]
  case extracts =>
    intro u hu hext ih
    rw [drainOp_of_isExtraction hu hext, List.length_cons, List.replicate_succ, performAll_cons,
      perform_tryExtract hu, ih]
    rfl

/-- Settles O20, from the list of TRY_EXTRACT operations that a DRAIN stands for. -/
theorem drainRepeatsTryExtractUntilNone : Obligations.DrainRepeatsTryExtractUntilNone := by
  intro s ⟨hs, hf⟩
  have hdrain : exec .drain s = .next ((drainOp s).1.post (.sequence (drainOp s).2)) :=
    exec_of_configured hs .drain
  have htries := issue_of_configured hs (List.replicate ((drainOp s).2.length + 1) .tryExtract)
  have hreplies := performAll_replies (List.replicate ((drainOp s).2.length + 1) .tryExtract) s
  rw [performAll_tryExtract_eq_drainOp hf] at htries hreplies
  refine ⟨_, _, _, hdrain, ?_, isExtraction_of_mem_drainOp hf, htries, ?_, rfl⟩
  · rw [State.post_replies, hreplies]
  · rw [State.postAll_replies, hreplies, List.append_assoc]

/-! ## However the stream is cut -/

theorem drainOp_congr (hs : s.fault = .noFault) (ht : t.fault = .noFault) (h : extract s = extract t) :
    drainOp s = drainOp t := by
  rcases extract_none_or_shrinks t with hnone | ⟨hext, -⟩
  · rw [drainOp_of_none hs (by rw [h, hnone]), drainOp_of_none ht hnone, h]
  · rw [drainOp_of_isExtraction hs (by rw [h, hext]), drainOp_of_isExtraction ht hext, h]

theorem extractions_append (rs rs' : List Reply) :
    extractions (rs ++ rs') = extractions rs ++ extractions rs' := by
  simp [extractions]

theorem extractions_cons (r : Reply) (rs : List Reply) :
    extractions (r :: rs) = extractions [r] ++ extractions rs := extractions_append [r] rs

/-- A TRY_EXTRACT before the bytes arrive takes no result away from the DRAIN after them, and adds none
(40_synchronizer.md R110). -/
theorem drainOp_appendBytes (hf : s.fault = .noFault) (x : ByteString) :
    drainOp (s.appendBytes x) = ((drainOp ((extract s).1.appendBytes x)).1,
      extractions [.single (extract s).2] ++ (drainOp ((extract s).1.appendBytes x)).2) := by
  rcases extract_none_or_shrinks s with hnone | ⟨hext, -⟩
  · have hsame := drainOp_congr (s := s.appendBytes x) (t := (extract s).1.appendBytes x) hf
      (extract_unfaulted hf) (extract_appendBytes_of_none x hnone)
    rw [hsame, hnone]
    rfl
  · have hfound : extract (s.appendBytes x) = ((extract s).1.appendBytes x, (extract s).2) :=
      extract_appendBytes_of_ne_none x fun hnone => by simp [hnone, isExtraction] at hext
    have hresult : extractions [.single (extract s).2] = [(extract s).2] := by
      simp [extractions, resultsOf, hext]
    rw [drainOp_of_isExtraction (s := s.appendBytes x) hf (by rw [hfound]; exact hext), hfound, hresult]
    rfl

/-- Nor do any number of TRY_EXTRACT operations: by induction on their number. -/
theorem drainOp_appendBytes_after_tries (hf : s.fault = .noFault) (tries : Nat) (x : ByteString) :
    drainOp (s.appendBytes x) =
      ((drainOp ((performAll (List.replicate tries .tryExtract) s).1.appendBytes x)).1,
       extractions (performAll (List.replicate tries .tryExtract) s).2 ++
         (drainOp ((performAll (List.replicate tries .tryExtract) s).1.appendBytes x)).2) := by
  induction tries generalizing s with
  | zero => rfl
  | succ tries ih =>
    rw [List.replicate_succ, performAll_cons, perform_tryExtract hf, extractions_cons, List.append_assoc,
      drainOp_appendBytes hf x, ih (extract_unfaulted hf)]

theorem perform_feedn (hf : s.fault = .noFault) (hcap : s.bufCap = none) (bytes : ByteString) :
    perform (.feedn bytes) s =
      (s.appendBytes bytes, .sequence (List.replicate bytes.length (.ok .nothing))) := by
  rw [perform, feednOp_of_unbounded hf hcap, asSequence]

theorem extractions_feedn (n : Nat) : extractions [.sequence (List.replicate n (.ok .nothing))] = [] := by
  simp [extractions, resultsOf, isExtraction]

theorem extractions_drainOp (hf : s.fault = .noFault) : extractions [.sequence (drainOp s).2] = (drainOp s).2 := by
  have hall : (drainOp s).2.filter isExtraction = (drainOp s).2 :=
    List.filter_eq_self.mpr (isExtraction_of_mem_drainOp hf)
  simpa [extractions, resultsOf] using hall

theorem State.appendBytes_appendBytes (s : State) (x y : ByteString) :
    (s.appendBytes x).appendBytes y = s.appendBytes (x ++ y) := by
  simp [State.appendBytes]

/-- The instructions of a schedule: each chunk and the TRY_EXTRACT operations after it (40_synchronizer.md R111). -/
def scheduled (schedule : List (ByteString × Nat)) : List Instr :=
  schedule.flatMap fun c => .feedn c.1 :: List.replicate c.2 .tryExtract

/-- The bytes of a schedule, joined. -/
def scheduledBytes (schedule : List (ByteString × Nat)) : ByteString := schedule.flatMap Prod.fst

/-- A schedule and a final DRAIN give what draining the joined chunks gives: by induction on the schedule, the tries
after its first chunk moved behind all the bytes. -/
theorem performAll_scheduled_drain (hf : s.fault = .noFault) (hcap : s.bufCap = none)
    (schedule : List (ByteString × Nat)) :
    (performAll (scheduled schedule ++ [Instr.drain]) s).1 = (drainOp (s.appendBytes (scheduledBytes schedule))).1 ∧
    extractions (performAll (scheduled schedule ++ [Instr.drain]) s).2 =
      (drainOp (s.appendBytes (scheduledBytes schedule))).2 := by
  induction schedule generalizing s with
  | nil =>
    have hempty : s.appendBytes (scheduledBytes []) = s := s.appendBytes_nil
    rw [hempty]
    exact ⟨rfl, extractions_drainOp hf⟩
  | cons c rest ih =>
    obtain ⟨chunk, tries⟩ := c
    have hsplit : scheduled ((chunk, tries) :: rest) ++ [Instr.drain] =
        Instr.feedn chunk :: (List.replicate tries Instr.tryExtract ++ (scheduled rest ++ [Instr.drain])) := by
      simp [scheduled]
    have hbytes : scheduledBytes ((chunk, tries) :: rest) = chunk ++ scheduledBytes rest := rfl
    have hmoved := drainOp_appendBytes_after_tries (s := s.appendBytes chunk) hf tries (scheduledBytes rest)
    have hf' := performAll_unfaulted (s := s.appendBytes chunk) hcap hf (List.replicate tries .tryExtract)
    have hcap' := performAll_bufCap (List.replicate tries .tryExtract) (s.appendBytes chunk)
    obtain ⟨hstate, hresults⟩ := ih hf' (hcap'.trans hcap)
    rw [hsplit, performAll_cons, performAll_append, perform_feedn hf hcap, hbytes,
      ← State.appendBytes_appendBytes, hmoved, extractions_cons, extractions_feedn, extractions_append,
      hstate, hresults]
    exact ⟨rfl, rfl⟩

/-- Settles O21: both sides are the DRAIN of the joined chunks, the right one being a schedule of one chunk. -/
theorem chunkingDoesNotChangeTheFrames : Obligations.ChunkingDoesNotChangeTheFrames := by
  intro s schedule ⟨hs, hf⟩ hcap
  obtain ⟨hstateT, hresultsT⟩ := performAll_scheduled_drain hf hcap schedule
  obtain ⟨hstateU, hresultsU⟩ := performAll_scheduled_drain hf hcap [(scheduledBytes schedule, 0)]
  have hwhole : scheduledBytes [(scheduledBytes schedule, 0)] = scheduledBytes schedule := List.append_nil _
  rw [hwhole] at hstateU hresultsU
  have issued (is : List Instr) := issue_of_configured hs is
  have replied (is : List Instr) : ((performAll is s).1.postAll (performAll is s).2).replies =
      s.replies ++ (performAll is s).2 := by rw [State.postAll_replies, performAll_replies]
  refine ⟨_, _, _, _, issued (scheduled schedule ++ [Instr.drain]),
    issued (scheduled [(scheduledBytes schedule, 0)] ++ [Instr.drain]), ?_, replied _, replied _,
    hresultsT.trans hresultsU.symm⟩
  rw [State.postAll_withoutReplies, State.postAll_withoutReplies, hstateT, hstateU]

end Sys2Proof.Machine
end

section
/-! PROOFS. The family 40_synchronizer, what is fed and drained: whole frames, a stray END between two of them, a
START inside one, and a RESET before one (spec/40_synchronizer.md R109, R112, R113). -/

namespace Sys2Proof.Machine

variable {s t : State} {r : Result} {p rest : ByteString}

/-! ## The searches of a framed buffer -/

theorem find_append_self (m x : ByteString) : find m (m ++ x) = some 0 :=
  find_eq_some_iff.mpr ⟨Nat.zero_le _, List.prefix_append m x, nofun⟩

theorem find_markerBytes_nil (m : Marker) : find (markerBytes m) [] = none := rfl

theorem State.setSync_of_sync_eq {v : Sync} (h : s.sync = v) : s.setSync v = s := by
  subst h
  rfl

/-- The bytes of a frame on the wire, dropped. -/
theorem drop_frame (m n : Marker) (p rest : ByteString) :
    (markerBytes m ++ p ++ markerBytes n ++ rest).drop (p.length + 8) = rest := by
  refine List.drop_left' ?_
  simp only [List.length_append, markerBytes_length, markerLength]
  omega

/-- A frame at the front of the buffer is extracted (40_synchronizer.md R103, R105). -/
theorem extract_of_frame (hsync : s.sync = .seekingStart)
    (hbuf : s.buf = s.startBytes ++ p ++ s.endBytes ++ rest)
    (hend : EarliestAt s.endBytes (p ++ s.endBytes) p.length) :
    extract s = (s.dropFront (p.length + 8),
      .ok (.rawFrame ⟨p, p.length, s.base + 4, s.base + 4 + p.length⟩)) := by
  have hstart : s.findStart = some 0 := by
    rw [State.findStart, hbuf, List.append_assoc, List.append_assoc]
    exact find_append_self _ _
  have hopened : (s.openFrame 0).buf = p ++ s.endBytes ++ rest := by
    simp only [State.openFrame, State.setSync_buf, State.dropFront_buf, hbuf, List.append_assoc]
    exact List.drop_left' (markerBytes_length _)
  have hclose : (s.openFrame 0).findEnd = some p.length := by
    rw [State.findEnd, hopened]
    exact find_append_of_some (find_eq_some_iff_earliestAt.mpr hend) rest
  have hpayload : (s.openFrame 0).buf.take p.length = p := by
    rw [hopened, List.append_assoc, List.take_left]
  have hstate : ((s.openFrame 0).dropFront (p.length + markerLength)).setSync .seekingStart =
      s.dropFront (p.length + 8) := by
    have hlength : 0 + markerLength + (p.length + markerLength) = p.length + 8 := by
      simp only [markerLength]
      omega
    rw [State.openFrame, dropFront_setSync_dropFront_setSync, hlength]
    exact State.setSync_of_sync_eq hsync
  have hbase : (s.openFrame 0).base = s.base + 4 := rfl
  rw [extract_of_start hsync hstart (strayEnd_eq_none_iff.mpr fun _ _ => Nat.zero_le _),
    closeFrame_of_some hclose, hstate, hpayload, hbase]

/-- An END marker at the front, before a START marker, is reported and dropped (40_synchronizer.md R106). -/
theorem extract_of_endFirst {i : Nat} (hsync : s.sync = .seekingStart) (hbuf : s.buf = s.endBytes ++ rest)
    (hstart : s.findStart = some i) (hi : 0 < i) : extract s = (s.dropFront 4, .malformedOrdering) := by
  have hend : s.findEnd = some 0 := by
    rw [State.findEnd, hbuf]
    exact find_append_self _ _
  exact extract_of_strayEnd hsync hstart (strayEnd_eq_some_iff.mpr ⟨hend, hi⟩)

/-! ## The drain of a framed buffer -/

theorem drainOp_of_extract_eq (hf : s.fault = .noFault) (h : extract s = (t, r)) (hr : isExtraction r = true) :
    drainOp s = ((drainOp t).1, r :: (drainOp t).2) := by
  rw [drainOp_of_isExtraction hf (by rw [h]; exact hr), h]

theorem drainOp_of_empty (hf : s.fault = .noFault) (hsync : s.sync = .seekingStart) (hbuf : s.buf = []) :
    drainOp s = (s, []) := by
  have hstart : s.findStart = none := by rw [State.findStart, hbuf, find_markerBytes_nil]
  have hnone := extract_of_noStart hsync hstart
  rw [drainOp_of_none hf (by rw [hnone]), hnone]

theorem drainOp_of_frame (hf : s.fault = .noFault) (hsync : s.sync = .seekingStart)
    (hbuf : s.buf = s.startBytes ++ p ++ s.endBytes ++ rest)
    (hend : EarliestAt s.endBytes (p ++ s.endBytes) p.length) :
    drainOp s = ((drainOp (s.dropFront (p.length + 8))).1,
      .ok (.rawFrame ⟨p, p.length, s.base + 4, s.base + 4 + p.length⟩) ::
        (drainOp (s.dropFront (p.length + 8))).2) ∧
    (s.dropFront (p.length + 8)).buf = rest :=
  ⟨drainOp_of_extract_eq hf (extract_of_frame hsync hbuf hend) rfl,
    by rw [State.dropFront_buf, hbuf, drop_frame]⟩

theorem drainOp_of_endFirst {i : Nat} (hf : s.fault = .noFault) (hsync : s.sync = .seekingStart)
    (hbuf : s.buf = s.endBytes ++ rest) (hstart : s.findStart = some i) (hi : 0 < i) :
    drainOp s = ((drainOp (s.dropFront 4)).1, .malformedOrdering :: (drainOp (s.dropFront 4)).2) ∧
    (s.dropFront 4).buf = rest := by
  refine ⟨drainOp_of_extract_eq hf (extract_of_endFirst hsync hbuf hstart hi) rfl, ?_⟩
  rw [State.dropFront_buf, hbuf]
  exact List.drop_left' (markerBytes_length _)

/-- A buffer that holds one frame and nothing else. -/
theorem drainOp_of_one_frame (hf : s.fault = .noFault) (hsync : s.sync = .seekingStart)
    (hbuf : s.buf = s.startBytes ++ p ++ s.endBytes) (hend : EarliestAt s.endBytes (p ++ s.endBytes) p.length) :
    drainOp s = (s.dropFront (p.length + 8),
      [.ok (.rawFrame ⟨p, p.length, s.base + 4, s.base + 4 + p.length⟩)]) ∧
    (s.dropFront (p.length + 8)).buf = [] := by
  obtain ⟨hdrain, hempty⟩ := drainOp_of_frame hf hsync (hbuf.trans (List.append_nil _).symm) hend
  rw [hdrain, drainOp_of_empty (s := s.dropFront (p.length + 8)) hf hsync hempty]
  exact ⟨rfl, hempty⟩

/-- A buffer that holds two frames with a stray END between them (40_synchronizer.md R112). -/
theorem drainOp_of_strayEnd_between_frames {a b : ByteString} (hf : s.fault = .noFault)
    (hsync : s.sync = .seekingStart)
    (hbuf : s.buf = s.startBytes ++ a ++ s.endBytes ++ (s.endBytes ++ (s.startBytes ++ b ++ s.endBytes)))
    (hendA : EarliestAt s.endBytes (a ++ s.endBytes) a.length)
    (hendB : EarliestAt s.endBytes (b ++ s.endBytes) b.length)
    (hstart : EarliestAt s.startBytes (s.endBytes ++ s.startBytes) 4) :
    ∃ t, drainOp s = (t,
        [.ok (.rawFrame ⟨a, a.length, s.base + 4, s.base + 4 + a.length⟩), .malformedOrdering,
         .ok (.rawFrame ⟨b, b.length, s.base + a.length + 16, s.base + a.length + 16 + b.length⟩)]) ∧
      t.buf = [] ∧ t.sync = .seekingStart ∧ t.base = s.base + (a.length + b.length + 20) := by
  obtain ⟨hdrainA, hafterA⟩ := drainOp_of_frame hf hsync hbuf hendA
  have hnext : (s.dropFront (a.length + 8)).findStart = some 4 := by
    have hfound := find_append_of_some (find_eq_some_iff_earliestAt.mpr hstart) (b ++ s.endBytes)
    rw [State.findStart, hafterA]
    simp only [List.append_assoc] at hfound ⊢
    exact hfound
  obtain ⟨hdrainEnd, hafterEnd⟩ := drainOp_of_endFirst (s := s.dropFront (a.length + 8)) hf hsync hafterA hnext
    (by decide)
  obtain ⟨hdrainB, hafterB⟩ := drainOp_of_one_frame (s := (s.dropFront (a.length + 8)).dropFront 4) hf hsync
    hafterEnd hendB
  have hbase : ((s.dropFront (a.length + 8)).dropFront 4).base = s.base + a.length + 12 := by
    simp only [State.dropFront_base]
    omega
  rw [hdrainA, hdrainEnd, hdrainB, hbase]
  refine ⟨_, rfl, hafterB, hsync, ?_⟩
  rw [State.dropFront_base, hbase]
  omega

/-! ## Feeding and draining -/

theorem performAll_feedn_drain (hf : s.fault = .noFault) (hcap : s.bufCap = none) (bytes : ByteString) :
    performAll [.feedn bytes, .drain] s = ((drainOp (s.appendBytes bytes)).1,
      [.sequence (List.replicate bytes.length (.ok .nothing)), .sequence (drainOp (s.appendBytes bytes)).2]) := by
  rw [performAll_cons, perform_feedn hf hcap]
  rfl

theorem appendBytes_buf_of_empty (h : s.buf = []) (bytes : ByteString) : (s.appendBytes bytes).buf = bytes := by
  rw [State.appendBytes_buf, h, List.nil_append]

theorem issue_eq_of_performAll_eq {is : List Instr} {replies : List Reply} (hs : s.configured = true)
    (h : performAll is s = (t, replies)) :
    issue is s = some (t.postAll replies) ∧ t.replies = s.replies := by
  have hreplies := performAll_replies is s
  have hissue := issue_of_configured hs is
  rw [h] at hreplies hissue
  exact ⟨hissue, hreplies⟩

/-- One frame, fed into an empty buffer and drained. -/
theorem performAll_feedn_frame_drain {bytes : ByteString} (hf : s.fault = .noFault) (hcap : s.bufCap = none)
    (hempty : s.buf = []) (hsync : s.sync = .seekingStart) (hbytes : bytes = s.startBytes ++ p ++ s.endBytes)
    (hend : EarliestAt s.endBytes (p ++ s.endBytes) p.length) :
    ∃ t fed, performAll [.feedn bytes, .drain] s = (t, [fed,
        .sequence [.ok (.rawFrame ⟨p, p.length, s.base + 4, s.base + 4 + p.length⟩)]]) ∧
      t.buf = [] ∧ t.sync = .seekingStart ∧ t.base = s.base + (p.length + 8) := by
  obtain ⟨hdrain, hdrained⟩ := drainOp_of_one_frame (s := s.appendBytes bytes) hf hsync
    ((appendBytes_buf_of_empty hempty bytes).trans hbytes) hend
  have hperform := performAll_feedn_drain hf hcap bytes
  rw [hdrain] at hperform
  exact ⟨_, _, hperform, hdrained, hsync, rfl⟩

/-- Settles O24: up to the first END marker everything after the first START marker is payload. -/
theorem startMarkerInsideAnOpenFrameIsPayload : Obligations.StartMarkerInsideAnOpenFrameIsPayload := by
  intro s a b ⟨hs, hf⟩ hcap hempty hsync hend
  have hlength : (a ++ s.startBytes ++ b).length = a.length + 4 + b.length := by
    simp only [List.length_append, markerBytes_length, markerLength]
  rw [← hlength] at hend ⊢
  obtain ⟨t, fed, hperform, hbuf, hsync', -⟩ := performAll_feedn_frame_drain
    (bytes := s.startBytes ++ a ++ s.startBytes ++ b ++ s.endBytes) hf hcap hempty hsync
    (by simp only [List.append_assoc]) hend
  obtain ⟨hissue, hreplies⟩ := issue_eq_of_performAll_eq hs hperform
  exact ⟨_, fed, hissue, hbuf, hsync', by rw [State.postAll_replies, hreplies]⟩

/-- Settles O23: on the block that RESET leaves, whatever was before, the one frame is drained. -/
theorem resetAbandonsThePartialPayload : Obligations.ResetAbandonsThePartialPayload := by
  intro s c fed tries b hs hcap hwf hend
  generalize [Instr.feedn fed] ++ List.replicate tries Instr.tryExtract = abandoned
  have hreset : perform (.reset c) (performAll abandoned s).1 =
      ((performAll abandoned s).1.load c, .single (.ok .nothing)) := by
    rw [perform_reset, resetOp, if_pos hwf]
    rfl
  obtain ⟨t, fst, hperform, hbuf, hsync, hbase⟩ := performAll_feedn_frame_drain
    (s := (performAll abandoned s).1.load c)
    (bytes := markerBytes c.startMarker ++ b ++ markerBytes c.endMarker)
    rfl ((performAll_bufCap abandoned s).trans hcap) rfl rfl rfl hend
  rw [State.load_base, Nat.zero_add] at hperform hbase
  have hall : performAll (abandoned ++ [Instr.reset c,
      Instr.feedn (markerBytes c.startMarker ++ b ++ markerBytes c.endMarker), Instr.drain]) s =
      (t, (performAll abandoned s).2 ++ [Reply.single (.ok .nothing), fst,
        Reply.sequence [.ok (.rawFrame ⟨b, b.length, 4, 4 + b.length⟩)]]) := by
    rw [performAll_append, performAll_cons, hreset, hperform]
  obtain ⟨hissue, -⟩ := issue_eq_of_performAll_eq hs hall
  exact ⟨_, t.replies ++ (performAll abandoned s).2, fst, hissue, hbuf, hsync, hbase,
    by rw [State.postAll_replies, List.append_assoc]⟩

/-- Settles O22: frame A, the stray END, frame B, and an empty buffer. -/
theorem strayEndIsReportedAndTheNextFrameIsIntact :
    Obligations.StrayEndIsReportedAndTheNextFrameIsIntact := by
  intro s a b ⟨hs, hf⟩ hcap hempty hsync hendA hendB hstart
  generalize hchunk : s.startBytes ++ a ++ s.endBytes ++ s.endBytes ++ s.startBytes ++ b ++ s.endBytes = chunk
  have hfed : (s.appendBytes chunk).buf =
      s.startBytes ++ a ++ s.endBytes ++ (s.endBytes ++ (s.startBytes ++ b ++ s.endBytes)) := by
    rw [appendBytes_buf_of_empty hempty, ← hchunk]
    simp only [List.append_assoc]
  obtain ⟨t, hdrain, hbuf, hsync', hbase⟩ :=
    drainOp_of_strayEnd_between_frames (s := s.appendBytes chunk) hf hsync hfed hendA hendB hstart
  have hperform := performAll_feedn_drain hf hcap chunk
  rw [hdrain] at hperform
  obtain ⟨hissue, hreplies⟩ := issue_eq_of_performAll_eq hs hperform
  refine ⟨_, .sequence (List.replicate chunk.length (.ok .nothing)), hissue, hbuf, hsync', hbase, ?_⟩
  rw [State.postAll_replies, hreplies]
  rfl

end Sys2Proof.Machine
end

section
/-! PROOFS. The family 40_synchronizer, PIPE and RUN over what is extracted: the decode of an open frame, and the
loop of RUN as the handling of each result of the drain (spec/43_system.md R164, R165, R167). -/

namespace Sys2Proof.Machine

variable {s t : State} {r : Result}

/-! ## The decode that `cfg.FORMAT` selects -/

theorem decodeFrameOp_of_rgb565 (hf : s.fault = .noFault) (hformat : s.cfg.format = .rgb565)
    (payload : ByteString) :
    decodeFrameOp payload s = (s, rgb565Result s.cfg payload (frameBytes s.cfg)) := by
  rw [decodeFrameOp, hformat]
  exact gate_noFault hf _

theorem decodeFrameOp_of_mask (hf : s.fault = .noFault) (hformat : s.cfg.format = .mask) (payload : ByteString) :
    decodeFrameOp payload s = ((acceptLines s (splitLines payload)).1,
      decodeMaskResult (acceptLines s (splitLines payload)).2) := by
  rw [decodeFrameOp, hformat]
  exact gate_noFault hf _

theorem pipeOp_of_frame {f : RawFrame} (h : tryExtractOp s = (t, .ok (.rawFrame f))) :
    pipeOp s = decodeFrameOp f.payload t := by
  simp [pipeOp, h, frameOf]

/-- Settles O38: the END marker closes the frame, and PIPE decodes its payload. -/
theorem pipeDecodesAnOpenFrame : Obligations.PipeDecodesAnOpenFrame := by
  intro s after e ⟨hs, hf⟩ hsync hend hafter
  have hextract : tryExtractOp s = (after, .ok (.rawFrame ⟨s.buf.take e, e, s.base, s.base + e⟩)) := by
    rw [tryExtractOp_of_unfaulted hf, extract_of_seekingEnd hsync,
      closeFrame_of_some (find_eq_some_iff_earliestAt.mpr hend), hafter]
    rfl
  have hcfg : after.cfg = s.cfg := by rw [hafter]
  have hafterConfigured : after.configured = true := by rw [hafter]; exact hs
  have hpipe := exec_of_configured hs .pipe
  rw [perform, pipeOp_of_frame hextract, decodeFrameOp, hcfg] at hpipe
  refine ⟨_, hpipe, fun hformat => ?_, fun hformat => ?_⟩
  · rw [exec_of_configured hafterConfigured, hformat]
    rfl
  · rw [exec_of_configured hafterConfigured, hformat]
    rfl

/-! ## The search leaves the rows, and the accumulation the stream -/

/-- Another part of the stream in the buffer: the variables that FEED and TRY_EXTRACT write (10_state.md R21 to
R23). -/
def State.withStream (s : State) (buf : ByteString) (sync : Sync) (base : Nat) : State :=
  { s with buf := buf, sync := sync, base := base }

theorem closeFrame_setMaskRows (s : State) (rows : List ByteString) :
    closeFrame (s.setMaskRows rows) = ((closeFrame s).1.setMaskRows rows, (closeFrame s).2) := by
  rcases closeFrame_cases s with ⟨hend, h⟩ | ⟨e, hend, h⟩ <;> rw [h]
  · exact closeFrame_of_none hend
  · exact closeFrame_of_some hend

/-- The search neither reads nor writes the rows of the mask. -/
theorem extract_setMaskRows (s : State) (rows : List ByteString) :
    extract (s.setMaskRows rows) = ((extract s).1.setMaskRows rows, (extract s).2) := by
  rcases extract_cases s with ⟨hsync, hstart, h⟩ | ⟨i, e, hsync, hstart, hstray, h⟩ |
    ⟨i, hsync, hstart, hstray, h⟩ | ⟨hsync, h⟩ <;> rw [h]
  · exact extract_of_noStart hsync hstart
  · exact extract_of_strayEnd hsync hstart hstray
  · exact (extract_of_start (s := s.setMaskRows rows) hsync hstart hstray).trans
      (closeFrame_setMaskRows (s.openFrame i) rows)
  · exact (extract_of_seekingEnd (s := s.setMaskRows rows) hsync).trans (closeFrame_setMaskRows s rows)

theorem drainLoop_setMaskRows (hf : s.fault = .noFault) (fuel : Nat) (rows : List ByteString) :
    drainLoop fuel (s.setMaskRows rows) = ((drainLoop fuel s).1.setMaskRows rows, (drainLoop fuel s).2) := by
  induction fuel generalizing s with
  | zero => rfl
  | succ fuel ih =>
    have hmoved := extract_setMaskRows s rows
    rcases extract_none_or_shrinks s with hnone | ⟨hext, -⟩
    · rw [drainLoop_succ_of_none hf hnone,
        drainLoop_succ_of_none (s := s.setMaskRows rows) hf (by rw [hmoved, hnone]), hmoved]
    · rw [drainLoop_succ_of_isExtraction hf hext,
        drainLoop_succ_of_isExtraction (s := s.setMaskRows rows) hf (by rw [hmoved]; exact hext), hmoved,
        ih (extract_unfaulted hf)]

/-- A DRAIN writes the variables of the stream only. -/
theorem drainLoop_writes (hf : s.fault = .noFault) (fuel : Nat) :
    ∃ buf sync base, (drainLoop fuel s).1 = s.withStream buf sync base := by
  induction fuel generalizing s with
  | zero => exact ⟨s.buf, s.sync, s.base, rfl⟩
  | succ fuel ih =>
    obtain ⟨n, v, -, hdrop⟩ := extract_drops hf
    rcases extract_none_or_shrinks s with hnone | ⟨hext, -⟩
    · rw [drainLoop_succ_of_none hf hnone, hdrop]
      exact ⟨_, _, _, rfl⟩
    · obtain ⟨buf, sync, base, h⟩ := ih (extract_unfaulted hf)
      rw [drainLoop_succ_of_isExtraction hf hext]
      exact ⟨buf, sync, base, by rw [h, hdrop]; rfl⟩

section
variable (s) (buf : ByteString) (sync : Sync) (base : Nat)

@[simp] theorem State.withStream_cfg : (s.withStream buf sync base).cfg = s.cfg := rfl
@[simp] theorem State.withStream_maskRows : (s.withStream buf sync base).maskRows = s.maskRows := rfl
@[simp] theorem State.withStream_setMaskRows (rows : List ByteString) :
    (s.withStream buf sync base).setMaskRows rows = (s.setMaskRows rows).withStream buf sync base := rfl

theorem acceptLine_withStream (line : ByteString) :
    acceptLine (s.withStream buf sync base) line =
      ((acceptLine s line).1.withStream buf sync base, (acceptLine s line).2) := by
  rcases acceptLine_cases s line with ⟨hv, he⟩ | ⟨hv, hh, he⟩ | ⟨hv, hh, he⟩ <;> rw [he]
  · simp [acceptLine, hv]
  · simp [acceptLine, hv, hh]
  · simp [acceptLine, hv, hh]

/-- The accumulation neither reads nor writes the stream (42_codec_mask.md R140). -/
theorem acceptLines_withStream (lines : List ByteString) :
    acceptLines (s.withStream buf sync base) lines =
      ((acceptLines s lines).1.withStream buf sync base, (acceptLines s lines).2) := by
  induction lines generalizing s with
  | nil => rfl
  | cons line rest ih => simp only [acceptLines_cons, acceptLine_withStream, ih]

theorem decodeFrameOp_withStream (hf : s.fault = .noFault) (payload : ByteString) :
    decodeFrameOp payload (s.withStream buf sync base) =
      ((decodeFrameOp payload s).1.withStream buf sync base, (decodeFrameOp payload s).2) := by
  cases hformat : s.cfg.format with
  | rgb565 =>
    rw [decodeFrameOp_of_rgb565 hf hformat,
      decodeFrameOp_of_rgb565 (s := s.withStream buf sync base) hf hformat]
    rfl
  | mask =>
    rw [decodeFrameOp_of_mask hf hformat, decodeFrameOp_of_mask (s := s.withStream buf sync base) hf hformat,
      acceptLines_withStream]

end

theorem acceptLines_append (s : State) (lines more : List ByteString) :
    acceptLines s (lines ++ more) = ((acceptLines (acceptLines s lines).1 more).1,
      (acceptLines s lines).2 ++ (acceptLines (acceptLines s lines).1 more).2) := by
  induction lines generalizing s with
  | nil => rfl
  | cons line rest ih => simp only [List.cons_append, acceptLines_cons, ih, List.append_assoc]

theorem decodeFrameOp_writes (hf : s.fault = .noFault) (payload : ByteString) :
    ∃ rows, (decodeFrameOp payload s).1 = s.setMaskRows rows := by
  cases hformat : s.cfg.format with
  | rgb565 => exact ⟨s.maskRows, by rw [decodeFrameOp_of_rgb565 hf hformat]; rfl⟩
  | mask =>
    rw [decodeFrameOp_of_mask hf hformat]
    exact acceptLines_writes s _

/-! ## What RUN does with the results of a drain -/

/-- RUN's handling of one result of the drain: a frame is decoded and delivered, a malformed ordering reported
(43_system.md R167). -/
def handle (r : Result) (s : State) : State × List HostEvent :=
  match frameOf r with
  | some f => ((decodeFrameOp f.payload s).1, deliver (decodeFrameOp f.payload s).2)
  | none => (s, [.reportMalformedOrdering])

/-- The handling of the results of a drain, in order. -/
def handleAll : List Result → State → State × List HostEvent
  | [], s => (s, [])
  | r :: rest, s =>
    let later := handleAll rest (handle r s).1
    (later.1, (handle r s).2 ++ later.2)

@[simp] theorem handleAll_nil (s : State) : handleAll [] s = (s, []) := rfl

@[simp] theorem handleAll_cons (r : Result) (rest : List Result) (s : State) :
    handleAll (r :: rest) s =
      ((handleAll rest (handle r s).1).1, (handle r s).2 ++ (handleAll rest (handle r s).1).2) := rfl

theorem handle_of_frame {f : RawFrame} (h : frameOf r = some f) (s : State) :
    handle r s = ((decodeFrameOp f.payload s).1, deliver (decodeFrameOp f.payload s).2) := by
  rw [handle, h]

theorem handle_of_no_frame (h : frameOf r = none) (s : State) :
    handle r s = (s, [.reportMalformedOrdering]) := by
  rw [handle, h]

theorem handle_writes (hf : s.fault = .noFault) (r : Result) : ∃ rows, (handle r s).1 = s.setMaskRows rows := by
  cases h : frameOf r with
  | none => exact ⟨s.maskRows, by rw [handle_of_no_frame h]; rfl⟩
  | some f =>
    rw [handle_of_frame h]
    exact decodeFrameOp_writes hf f.payload

theorem handle_unfaulted (hf : s.fault = .noFault) (r : Result) : (handle r s).1.fault = .noFault := by
  obtain ⟨rows, h⟩ := handle_writes hf r
  rw [h, State.setMaskRows_fault, hf]

theorem handleAll_writes (hf : s.fault = .noFault) (rs : List Result) :
    ∃ rows, (handleAll rs s).1 = s.setMaskRows rows := by
  induction rs generalizing s with
  | nil => exact ⟨s.maskRows, rfl⟩
  | cons r rest ih =>
    obtain ⟨here, hhere⟩ := handle_writes hf r
    obtain ⟨later, hlater⟩ := ih (handle_unfaulted hf r)
    exact ⟨later, by rw [handleAll_cons, hlater, hhere]; rfl⟩

theorem handle_withStream (hf : s.fault = .noFault) (r : Result) (buf : ByteString) (sync : Sync) (base : Nat) :
    handle r (s.withStream buf sync base) = ((handle r s).1.withStream buf sync base, (handle r s).2) := by
  cases h : frameOf r with
  | none => rw [handle_of_no_frame h, handle_of_no_frame h]
  | some f => rw [handle_of_frame h, handle_of_frame h, decodeFrameOp_withStream s buf sync base hf]

/-! ## The loop of RUN -/

theorem isExtraction_iff : isExtraction r = true ↔ r = .malformedOrdering ∨ ∃ f, r = .ok (.rawFrame f) := by
  cases r with
  | ok v => cases v <;> simp [isExtraction]
  | _ => simp [isExtraction]

theorem runTurn_of_none (hf : s.fault = .noFault) (h : (extract s).2 = .none) :
    runTurn s = ((extract s).1, [], .left) := by
  simp only [runTurn, tryExtractOp_of_unfaulted hf, h]

theorem runTurn_of_isExtraction (hf : s.fault = .noFault) (h : isExtraction (extract s).2 = true) :
    runTurn s = ((handle (extract s).2 (extract s).1).1, (handle (extract s).2 (extract s).1).2, .again) := by
  rcases isExtraction_iff.mp h with hr | ⟨f, hr⟩
  · simp only [runTurn, tryExtractOp_of_unfaulted hf, hr]
    rfl
  · simp only [runTurn, tryExtractOp_of_unfaulted hf, hr]
    rfl

/-- The `repeat` of RUN is the drain with the handling of each of its results: by induction on the fuel that both
have, the handling of one result and the rest of the drain commuting (43_system.md R167). -/
theorem runRepeat_eq_handleAll (hf : s.fault = .noFault) (fuel : Nat) :
    runRepeat fuel s = ((handleAll (drainLoop fuel s).2 (drainLoop fuel s).1).1,
      (handleAll (drainLoop fuel s).2 (drainLoop fuel s).1).2, false) := by
  induction fuel generalizing s with
  | zero => rfl
  | succ fuel ih =>
    rw [runRepeat_succ]
    rcases extract_none_or_shrinks s with hnone | ⟨hext, -⟩
    · rw [runTurn_of_none hf hnone, drainLoop_succ_of_none hf hnone]
      rfl
    · have hf' := extract_unfaulted hf
      generalize hr : (extract s).2 = r at hext
      obtain ⟨rows, hrows⟩ := handle_writes hf' r
      obtain ⟨buf, sync, base, hdrain⟩ := drainLoop_writes hf' fuel
      have hlater := ih (handle_unfaulted hf' r)
      have hcommute : drainLoop fuel (handle r (extract s).1).1 =
          ((handle r (drainLoop fuel (extract s).1).1).1, (drainLoop fuel (extract s).1).2) := by
        rw [hdrain, handle_withStream hf', hrows, drainLoop_setMaskRows hf', hdrain]
        rfl
      have hevents : (handle r (drainLoop fuel (extract s).1).1).2 = (handle r (extract s).1).2 := by
        rw [hdrain, handle_withStream hf']
      rw [hcommute] at hlater
      rw [runTurn_of_isExtraction hf (by rw [hr]; exact hext), hr,
        drainLoop_succ_of_isExtraction hf (by rw [hr]; exact hext), hr, handleAll_cons, hevents]
      simp only [hlater]

/-- RUN over one chunk, on an unfaulted block of unbounded capacity: the chunk is fed, the buffer drained, and each
result handled. -/
theorem runOp_one_chunk (hf : s.fault = .noFault) (hcap : s.bufCap = none) (chunk : ByteString) :
    runOp [.chunk chunk] s =
      handleAll (drainOp (s.appendBytes chunk)).2 (drainOp (s.appendBytes chunk)).1 := by
  rw [runOp_chunk, feednOp_of_unbounded hf hcap]
  simp only [runRepeat_eq_handleAll (s := s.appendBytes chunk) hf]
  simp [drainOp]

/-! ## What is delivered, in each format -/

/-- The events of one result of the drain in the RGB565 format. -/
def rgbEvents (c : Cfg) (r : Result) : List HostEvent :=
  match frameOf r with
  | some f => deliver (rgb565Result c f.payload (frameBytes c))
  | none => [.reportMalformedOrdering]

theorem handle_of_rgb565 (hf : s.fault = .noFault) (hformat : s.cfg.format = .rgb565) (r : Result) :
    handle r s = (s, rgbEvents s.cfg r) := by
  cases h : frameOf r with
  | none => rw [handle_of_no_frame h, rgbEvents, h]
  | some f => rw [handle_of_frame h, rgbEvents, h, decodeFrameOp_of_rgb565 hf hformat]

theorem handleAll_of_rgb565 (hf : s.fault = .noFault) (hformat : s.cfg.format = .rgb565) (rs : List Result) :
    handleAll rs s = (s, rs.flatMap (rgbEvents s.cfg)) := by
  induction rs with
  | nil => rfl
  | cons r rest ih => rw [handleAll_cons, handle_of_rgb565 hf hformat, ih, List.flatMap_cons]

/-- The lines of the payloads of a drain, in order. -/
def maskLines (rs : List Result) : List ByteString :=
  (rs.filterMap frameOf).flatMap fun f => splitLines f.payload

theorem maskLines_cons_of_frame {f : RawFrame} (h : frameOf r = some f) (rs : List Result) :
    maskLines (r :: rs) = splitLines f.payload ++ maskLines rs := by
  simp [maskLines, h]

theorem maskLines_cons_of_no_frame (h : frameOf r = none) (rs : List Result) :
    maskLines (r :: rs) = maskLines rs := by
  simp [maskLines, h]

/-- The host loop accepts every frame that DECODE.MASK returns (43_system.md R167). -/
theorem deliver_decodeMaskResult (fs : List PixelFrame) :
    (deliver (decodeMaskResult fs)).flatMap framesOfEvent = fs := by
  cases fs with
  | nil => rfl
  | cons f fs => simp [decodeMaskResult, deliver, framesOfEvent, List.flatMap_map]

/-- In the mask format the handling is the accumulation of the lines of all payloads, and the frames accepted are
those it completes. -/
theorem handleAll_of_mask (hf : s.fault = .noFault) (hformat : s.cfg.format = .mask) (rs : List Result) :
    (handleAll rs s).1 = (acceptLines s (maskLines rs)).1 ∧
    (handleAll rs s).2.flatMap framesOfEvent = (acceptLines s (maskLines rs)).2 := by
  induction rs generalizing s with
  | nil => exact ⟨rfl, rfl⟩
  | cons r rest ih =>
    rw [handleAll_cons]
    cases h : frameOf r with
    | none =>
      rw [handle_of_no_frame h, maskLines_cons_of_no_frame h]
      exact ih hf hformat
    | some f =>
      have hhandle := handle_of_frame h s
      rw [decodeFrameOp_of_mask hf hformat] at hhandle
      obtain ⟨rows, hrows⟩ := acceptLines_writes s (splitLines f.payload)
      obtain ⟨hstate, hframes⟩ := ih (s := (acceptLines s (splitLines f.payload)).1)
        (by rw [hrows]; exact hf) (by rw [hrows]; exact hformat)
      rw [hhandle, maskLines_cons_of_frame h, acceptLines_append, List.flatMap_append,
        deliver_decodeMaskResult, hframes]
      exact ⟨hstate, rfl⟩

/-- Settles O40: RUN handles what the drain yields, and the two formats differ in the handling alone. -/
theorem runDeliversWhatTheDrainYields : Obligations.RunDeliversWhatTheDrainYields := by
  intro chunk s ⟨hs, hf⟩ hcap
  obtain ⟨buf, sync, base, hdrain⟩ :
      ∃ buf sync base, (drainOp (s.appendBytes chunk)).1 = s.withStream buf sync base :=
    drainLoop_writes (s := s.appendBytes chunk) hf _
  have hperform := performAll_feedn_drain hf hcap chunk
  have hexec := exec_of_configured hs (.run [.chunk chunk])
  rw [hdrain] at hperform
  rw [perform, runOp_one_chunk hf hcap, hdrain] at hexec
  generalize (drainOp (s.appendBytes chunk)).2 = rs at hperform hexec
  obtain ⟨rows, hrows⟩ := handleAll_writes (s := s.withStream buf sync base) hf rs
  obtain ⟨hissue, hreplies⟩ := issue_eq_of_performAll_eq hs hperform
  refine ⟨_, _, (handleAll rs (s.withStream buf sync base)).2, rs, _, hexec, ?_, hissue,
    congrArg (· ++ _) hreplies, ?_, fun hformat => ?_, fun hformat => ?_⟩
  · rw [State.post_replies, hrows]
    rfl
  · rw [State.post_withoutReplies, State.post_maskRows, hrows]
    rfl
  · rw [handleAll_of_rgb565 (s := s.withStream buf sync base) hf hformat]
    exact ⟨rfl, rfl⟩
  · obtain ⟨hstate, hframes⟩ := handleAll_of_mask (s := s.withStream buf sync base) hf hformat rs
    rw [State.post_maskRows, hstate, hframes, acceptLines_withStream]
    exact ⟨rfl, rfl⟩

end Sys2Proof.Machine
end

section
/-! PROOFS. The family 41_codec_rgb565, the arithmetic: channel expansion, the pixel of a cell in numbers, and where
each cell's pixel lies (spec/41_codec_rgb565.md R123, R124). -/

namespace Sys2Proof.Machine

variable {w m n : Nat}

/-! ## Channel expansion -/

/-- A value shifted left by `n` has no 1 bit in common with one below `2 ^ n`. -/
theorem shiftLeft_and_eq_zero_of_lt (a : BitVec w) {b : BitVec w} (hb : b.toNat < 2 ^ n) :
    a <<< n &&& b = 0 := by
  apply BitVec.eq_of_getLsbD_eq
  intro i _
  have hhigh (hi : n ≤ i) : b.getLsbD i = false :=
    Nat.testBit_lt_two_pow (hb.trans_le (Nat.pow_le_pow_right (by decide) hi))
  by_cases hi : i < n
  · simp [hi]
  · simp [hhigh (Nat.le_of_not_lt hi)]

/-- The top `n` bits of a channel of `n + m` bits are below `2 ^ n`. -/
theorem topBits_lt (x : BitVec (n + m)) : x.toNat / 2 ^ m < 2 ^ n := by
  rw [Nat.div_lt_iff_lt_mul (Nat.two_pow_pos m), ← Nat.pow_add]
  exact x.isLt

theorem setWidth_shiftRight_toNat (x : BitVec (n + m)) (hfits : n + m ≤ 8) :
    (x.setWidth 8 >>> m).toNat = x.toNat / 2 ^ m := by
  rw [BitVec.toNat_ushiftRight, BitVec.toNat_setWidth_of_le hfits, Nat.shiftRight_eq_div_pow]

/-- A channel that is moved to the top of the byte loses no bit. -/
theorem setWidth_shiftLeft_toNat (x : BitVec (n + m)) (hbits : n + m + n = 8) :
    (x.setWidth 8 <<< n).toNat = 2 ^ n * x.toNat := by
  have hlt : 2 ^ n * x.toNat < 2 ^ 8 := by
    rw [← hbits, Nat.pow_add 2 (n + m), Nat.mul_comm]
    exact Nat.mul_lt_mul_of_pos_right x.isLt (Nat.two_pow_pos n)
  rw [BitVec.toNat_shiftLeft, BitVec.toNat_setWidth_of_le (by omega), Nat.shiftLeft_eq, Nat.mul_comm,
    Nat.mod_eq_of_lt hlt]

/-- Bit replication into the low bits: the channel and its own top bits do not overlap (41_codec_rgb565.md R124). -/
theorem replicate_and_eq_zero (x : BitVec (n + m)) (hfits : n + m ≤ 8) :
    x.setWidth 8 <<< n &&& x.setWidth 8 >>> m = 0 :=
  shiftLeft_and_eq_zero_of_lt _ ((setWidth_shiftRight_toNat x hfits).trans_lt (topBits_lt x))

/-- Bit replication as a number: where the operands do not overlap, `|` and `+` agree (41_codec_rgb565.md R124). -/
theorem replicate_toNat (x : BitVec (n + m)) (hbits : n + m + n = 8) :
    (x.setWidth 8 <<< n ||| x.setWidth 8 >>> m).toNat = 2 ^ n * x.toNat + x.toNat / 2 ^ m := by
  have hfits : n + m ≤ 8 := by omega
  have hdisjoint := replicate_and_eq_zero x hfits
  rw [← BitVec.add_eq_or_of_and_eq_zero _ _ hdisjoint, BitVec.toNat_add_of_and_eq_zero hdisjoint,
    setWidth_shiftLeft_toNat x hbits, setWidth_shiftRight_toNat x hfits]

theorem exp5_toNat (x : BitVec 5) : (exp5 x).toNat = 8 * x.toNat + x.toNat / 4 :=
  replicate_toNat (n := 3) (m := 2) x rfl

theorem exp6_toNat (y : BitVec 6) : (exp6 y).toNat = 4 * y.toNat + y.toNat / 16 :=
  replicate_toNat (n := 2) (m := 4) y rfl

/-- Settles O26: a channel of five bits is replicated as 3 + 2 bits, one of six as 2 + 4. -/
theorem channelsExpandByBitReplication : Obligations.ChannelsExpandByBitReplication :=
  ⟨fun x => ⟨rfl, replicate_and_eq_zero (n := 3) (m := 2) x (by decide), exp5_toNat x⟩,
    fun y => ⟨rfl, replicate_and_eq_zero (n := 2) (m := 4) y (by decide), exp6_toNat y⟩⟩

/-! ## The pixel of a cell -/

/-- The three output bytes of a cell from its value as a number (41_codec_rgb565.md R123, R124). -/
def pixelOfNumber (v : Nat) : ByteString :=
  [BitVec.ofNat 8 (8 * (v / 2048) + v / 2048 / 4), BitVec.ofNat 8 (4 * (v / 32 % 64) + v / 32 % 64 / 16),
    BitVec.ofNat 8 (8 * (v % 32) + v % 32 / 4)]

theorem cellValue_toNat (order : ByteOrder) (p0 p1 : Byte) :
    (cellValue order p0 p1).toNat = cellNumber order p0 p1 := by
  cases order
  · exact append_byte_toNat p0 p1
  · exact append_byte_toNat p1 p0

/-- The channels of a cell by its value (30_encoding.md R75). -/
theorem channels_of_value (v : BitVec 16) :
    (cellRed v).toNat = v.toNat / 2048 ∧ (cellGreen v).toNat = v.toNat / 32 % 64 ∧
    (cellBlue v).toNat = v.toNat % 32 := by
  have hv := v.isLt
  simp only [cellRed, cellGreen, cellBlue, BitVec.extractLsb'_toNat, Nat.shiftRight_eq_div_pow, Nat.reducePow,
    true_and]
  omega

theorem exp5_eq_ofNat (x : BitVec 5) : exp5 x = BitVec.ofNat 8 (8 * x.toNat + x.toNat / 4) := by
  rw [← exp5_toNat, BitVec.ofNat_toNat, BitVec.setWidth_eq]

theorem exp6_eq_ofNat (y : BitVec 6) : exp6 y = BitVec.ofNat 8 (4 * y.toNat + y.toNat / 16) := by
  rw [← exp6_toNat, BitVec.ofNat_toNat, BitVec.setWidth_eq]

theorem pixelOfCell_eq_pixelOfNumber (v : BitVec 16) : pixelOfCell v = pixelOfNumber v.toNat := by
  obtain ⟨hred, hgreen, hblue⟩ := channels_of_value v
  rw [pixelOfCell, exp5_eq_ofNat, exp6_eq_ofNat, exp5_eq_ofNat, hred, hgreen, hblue, pixelOfNumber]

/-! ## The pixels of a payload -/

/-- The pixel of cell `k` lies at bytes `3k` to `3k + 2`: by induction on the cells (41_codec_rgb565.md R123). -/
theorem convertCells_getElem? (order : ByteOrder) (p : ByteString) {k j : Nat} (hk : 2 * k + 1 < p.length)
    (hj : j < 3) :
    (convertCells order p)[3 * k + j]? =
      (pixelOfCell (cellValue order (p[2 * k]?.getD 0) (p[2 * k + 1]?.getD 0)))[j]? := by
  induction p using convertCells.induct generalizing k with
  | case1 p0 p1 rest ih =>
    rw [convertCells_cons_cons]
    cases k with
    | zero =>
      rw [List.getElem?_append_left (by rw [pixelOfCell_length]; omega)]
      simp
    | succ k =>
      have hrest : 2 * k + 1 < rest.length := by simp only [List.length_cons] at hk; omega
      have hindex : 3 * (k + 1) + j - 3 = 3 * k + j := by omega
      rw [List.getElem?_append_right (by rw [pixelOfCell_length]; omega), pixelOfCell_length, hindex, ih hrest]
      rfl
  | case2 p hshort =>
    match p, hshort with
    | [_], _ => simp at hk
    | p0 :: p1 :: rest, hshort => exact absurd rfl (hshort p0 p1 rest)

end Sys2Proof.Machine
end

section
/-! PROOFS. The family 41_codec_rgb565, DECODE.RGB565: what survives stage 1, the result for each size, and what it is
read from (spec/41_codec_rgb565.md R120 to R123, R129, R132). -/

namespace Sys2Proof.Machine

variable {c : Cfg} {payload : ByteString} {size : Nat} {s : State}

/-! ## Stage 1 -/

/-- The payload cut or padded with zeros to `size` bytes (41_codec_rgb565.md R121). -/
def reconciled (payload : ByteString) (size : Nat) : ByteString :=
  payload.take size ++ List.replicate (size - payload.length) 0

theorem reconciled_length (payload : ByteString) (size : Nat) : (reconciled payload size).length = size := by
  simp only [reconciled, List.length_append, List.length_take, List.length_replicate]
  omega

/-- A byte of the reconciled payload is the payload's, and 0 where the payload has ended. -/
theorem reconciled_getElem?_getD {i : Nat} (hi : i < size) :
    (reconciled payload size)[i]?.getD 0 = payload[i]?.getD 0 := by
  rw [reconciled, List.getElem?_append, List.length_take]
  by_cases hpayload : i < payload.length
  · rw [if_pos (by omega), List.getElem?_take_of_lt hi]
  · rw [if_neg (by omega), List.getElem?_eq_none (l := payload) (by omega), List.getElem?_replicate]
    split <;> rfl

/-- Stage 1 hands on every payload but a short one under REJECT (41_codec_rgb565.md R121). -/
theorem reconcile_of_survives {policy : ShortPolicy} (h : size ≤ payload.length ∨ policy = .pad) :
    reconcile policy payload size = .ok (reconciled payload size, decide (size < payload.length)) := by
  rcases reconcile_cases policy payload size with
    ⟨hlong, he⟩ | ⟨hshort, hreject, -⟩ | ⟨hshort, -, he⟩ | ⟨hexact, he⟩
  · simp [he, reconciled, hlong, Nat.sub_eq_zero_of_le hlong.le]
  · rcases h with h | hpad
    · omega
    · cases hreject.symm.trans hpad
  · simp [he, reconciled, hshort.not_gt, List.take_of_length_le hshort.le]
  · simp [he, reconciled, hexact, List.take_of_length_le hexact.le]

/-! ## The result -/

/-- Stage 1 comes first: a short payload under REJECT, whatever the size (41_codec_rgb565.md R131 (8)). -/
theorem rgb565Result_of_short (hshort : payload.length < size) (hreject : c.shortPolicy = .reject) :
    rgb565Result c payload size = .sizeMismatch false := by
  have hstage : reconcile c.shortPolicy payload size = .error (.sizeMismatch false) := by
    simp [reconcile, hshort, hshort.not_gt, hreject]
  simp [rgb565Result, hstage]

theorem rgb565Result_of_odd_size (h : size ≤ payload.length ∨ c.shortPolicy = .pad) (hodd : size % 2 = 1) :
    rgb565Result c payload size = .malformedPayload (decide (size < payload.length)) := by
  simp [rgb565Result, reconcile_of_survives h, checkCells, reconciled_length, hodd]

theorem rgb565Result_of_wrong_size (h : size ≤ payload.length ∨ c.shortPolicy = .pad) (heven : size % 2 = 0)
    (hwrong : size ≠ c.width * c.height * 2) :
    rgb565Result c payload size = .sizeMismatch (decide (size < payload.length)) := by
  simp [rgb565Result, reconcile_of_survives h, checkCells, reconciled_length, heven, hwrong]

theorem rgb565Result_of_frame_size (hsize : c.width * c.height * 2 = size)
    (h : size ≤ payload.length ∨ c.shortPolicy = .pad) :
    rgb565Result c payload size = .ok (.rgbFrame
      ⟨c.width, c.height, .rgb888, convertCells c.byteOrder (reconciled payload size)⟩
      (decide (size < payload.length))) := by
  have heven : size % 2 ≠ 1 := by omega
  simp [rgb565Result, reconcile_of_survives h, checkCells, reconciled_length, hsize, heven]

/-- Settles O28: an instruction on a block that is ready returns the codec's result, case by case. -/
theorem decodeRgb565RejectsInOrder : Obligations.DecodeRgb565RejectsInOrder := by
  intro payload size s hready
  rw [exec_decodeRgb565_of_ready hready]
  refine ⟨fun hshort hreject => ?_, fun h hodd => ?_, fun h heven hwrong => ?_⟩
  · rw [rgb565Result_of_short hshort hreject, State.post]
  · rw [rgb565Result_of_odd_size h hodd, State.post]
  · rw [rgb565Result_of_wrong_size h heven hwrong, State.post]

/-! ## Every cell of a frame -/

/-- The bytes of cell `k` in the frame are those of the payload's cell, missing bytes 0
(41_codec_rgb565.md R121, R123). -/
theorem convertCells_reconciled_getElem? (order : ByteOrder) (payload : ByteString) {cells k j : Nat}
    (hk : k < cells) (hj : j < 3) :
    (convertCells order (reconciled payload (cells * 2)))[3 * k + j]? =
      (pixelOfNumber (cellNumber order (payload[2 * k]?.getD 0) (payload[2 * k + 1]?.getD 0)))[j]? := by
  rw [convertCells_getElem? order _ (by rw [reconciled_length]; omega) hj,
    reconciled_getElem?_getD (by omega), reconciled_getElem?_getD (by omega), pixelOfCell_eq_pixelOfNumber,
    cellValue_toNat]

/-- Settles O27: the frame is the conversion of the reconciled payload, read cell by cell. -/
theorem decodeRgb565ConvertsEveryCell : Obligations.DecodeRgb565ConvertsEveryCell := by
  intro payload s hready h
  refine ⟨convertCells s.cfg.byteOrder (reconciled payload (s.cfg.width * s.cfg.height * 2)), ?_, ?_, ?_⟩
  · rw [exec_decodeRgb565_of_ready hready, rgb565Result_of_frame_size rfl h, State.post]
  · rw [convertCells_length, reconciled_length, Nat.mul_div_cancel _ (by decide), Nat.mul_comm]
  · intro k hk
    have hcell {j : Nat} (hj : j < 3) :=
      convertCells_reconciled_getElem? s.cfg.byteOrder payload hk hj
    exact ⟨hcell (j := 0) (by decide), hcell (j := 1) (by decide), hcell (j := 2) (by decide)⟩

/-! ## What the result is read from -/

/-- The codec reads four fields of the configuration (41_codec_rgb565.md R120, R129). -/
theorem rgb565Result_congr {c₁ c₂ : Cfg} (hwidth : c₁.width = c₂.width) (hheight : c₁.height = c₂.height)
    (horder : c₁.byteOrder = c₂.byteOrder) (hpolicy : c₁.shortPolicy = c₂.shortPolicy) (payload : ByteString)
    (size : Nat) : rgb565Result c₁ payload size = rgb565Result c₂ payload size := by
  have hcheck (p : ByteString) (t : Bool) : checkCells c₁ p t = checkCells c₂ p t := by
    simp only [checkCells, hwidth, hheight]
  simp only [rgb565Result, hpolicy, hcheck, hwidth, hheight, horder]

/-- Through the gate, the result depends on the fault and on the codec's result alone (40_synchronizer.md R100). -/
theorem decodeRgb565Op_snd_congr {s₁ s₂ : State} (hfault : s₁.fault = s₂.fault)
    (hresult : rgb565Result s₁.cfg payload size = rgb565Result s₂.cfg payload size) :
    (decodeRgb565Op payload size s₁).2 = (decodeRgb565Op payload size s₂).2 := by
  unfold decodeRgb565Op
  rcases gate_cases s₁ (s₁, rgb565Result s₁.cfg payload size) with ⟨hf, h⟩ | ⟨hf, h⟩
  · rw [h, gate_noFault (hfault.symm.trans hf)]
    exact hresult
  · rw [h, gate_bufOverflow (hfault.symm.trans hf)]

theorem exec_decodeRgb565_of_configured (hs : s.configured = true) (payload : ByteString) (size : Nat) :
    exec (.decodeRgb565 payload size) s = .next (s.post (.single (decodeRgb565Op payload size s).2)) := by
  rw [exec_of_configured hs, perform, asSingle, decodeRgb565Op_fst]

/-- Settles O30: either block returns the codec's result through its gate, and is left as it was. -/
theorem decodeRgb565ReadsOnlyItsConfiguration : Obligations.DecodeRgb565ReadsOnlyItsConfiguration := by
  intro payload size s₁ s₂ hs₁ hs₂ hfault hwidth hheight horder hpolicy
  have hsame : (decodeRgb565Op payload size s₁).2 = (decodeRgb565Op payload size s₂).2 :=
    decodeRgb565Op_snd_congr hfault (rgb565Result_congr hwidth hheight horder hpolicy payload size)
  refine ⟨(decodeRgb565Op payload size s₁).2, exec_decodeRgb565_of_configured hs₁ payload size, ?_⟩
  rw [hsame]
  exact exec_decodeRgb565_of_configured hs₂ payload size

end Sys2Proof.Machine
end

section
/-! PROOFS. The family 42_codec_mask: how a payload is cut into lines, and DECODE.MASK as MASK_ROW of each of them
(spec/42_codec_mask.md R140 to R143, R148, R149). -/

namespace Sys2Proof.Machine

variable {s : State} {line : ByteString}

/-! ## The lines of a payload -/

/-- The model's cut is the library's (42_codec_mask.md R142). -/
theorem splitLines_eq_splitOn (p : ByteString) : splitLines p = p.splitOn newline := by
  induction p with
  | nil => rw [splitLines_nil, List.splitOn_nil]
  | cons b rest ih =>
    rw [List.splitOn_cons_eq_if_modifyHead, ← ih]
    by_cases hb : b = newline
    · simp [hb]
    · obtain ⟨line, more, hlines⟩ := List.exists_cons_of_ne_nil (splitLines_ne_nil rest)
      simp [splitLines_cons_of_ne hb hlines, hlines, hb]

/-- A newline cuts a payload into the lines before it and the lines after it (42_codec_mask.md R149). -/
theorem splitLines_append_newline (p q : ByteString) :
    splitLines (p ++ newline :: q) = splitLines p ++ splitLines q := by
  simp only [splitLines_eq_splitOn, List.splitOn_append_cons_self]

theorem splitLines_of_newline_free (h : newline ∉ line) : splitLines line = [line] := by
  rw [splitLines_eq_splitOn, List.splitOn_eq_singleton h]

theorem splitLines_length (p : ByteString) : (splitLines p).length = p.count newline + 1 := by
  induction p with
  | nil => rfl
  | cons b rest ih =>
    by_cases hb : b = newline
    · simp [hb, ih]
    · obtain ⟨line, more, hlines⟩ := List.exists_cons_of_ne_nil (splitLines_ne_nil rest)
      rw [splitLines_cons_of_ne hb hlines, List.count_cons_of_ne hb, ← ih, hlines]
      rfl

theorem newline_not_mem_of_mem_splitLines (p : ByteString) : ∀ line ∈ splitLines p, newline ∉ line := by
  induction p with
  | nil => simp
  | cons b rest ih =>
    by_cases hb : b = newline
    · simpa [hb] using ih
    · obtain ⟨line, more, hlines⟩ := List.exists_cons_of_ne_nil (splitLines_ne_nil rest)
      rw [hlines, List.forall_mem_cons] at ih
      rw [splitLines_cons_of_ne hb hlines, List.forall_mem_cons]
      exact ⟨List.not_mem_cons_of_ne_of_not_mem (Ne.symm hb) ih.1, ih.2⟩

/-- Settles O33. -/
theorem linesCutThePayloadAtEveryNewline : Obligations.LinesCutThePayloadAtEveryNewline := by
  intro payload
  refine ⟨?_, splitLines_length payload, newline_not_mem_of_mem_splitLines payload⟩
  rw [splitLines_eq_splitOn]
  exact List.intercalate_splitOn newline

/-! ## One equation per arm of the accumulation -/

theorem acceptLine_of_invalid (h : ¬ (line.length = s.cfg.width ∧ ∀ b ∈ line, b = char0 ∨ b = char1)) :
    acceptLine s line = (s, none) :=
  if_neg fun hv => h (lineValid_iff.mp hv)

theorem acceptLine_of_room (hlength : line.length = s.cfg.width) (hchars : ∀ b ∈ line, b = char0 ∨ b = char1)
    (hroom : s.maskRows.length + 1 ≠ s.cfg.height) :
    acceptLine s line = (s.setMaskRows (s.maskRows ++ [rowOfLine line]), none) := by
  simp [acceptLine, lineValid_iff.mpr ⟨hlength, hchars⟩, hroom]

theorem acceptLine_of_last (hlength : line.length = s.cfg.width) (hchars : ∀ b ∈ line, b = char0 ∨ b = char1)
    (hlast : s.maskRows.length + 1 = s.cfg.height) :
    acceptLine s line = (s.setMaskRows [], some (maskPixelFrame s.cfg (s.maskRows ++ [rowOfLine line]))) := by
  simp [acceptLine, lineValid_iff.mpr ⟨hlength, hchars⟩, hlast]

theorem acceptLines_unfaulted (hf : s.fault = .noFault) (ls : List ByteString) :
    (acceptLines s ls).1.fault = .noFault := by
  obtain ⟨rows, h⟩ := acceptLines_writes s ls
  rw [h, State.setMaskRows_fault, hf]

/-! ## MASK_ROW and DECODE.MASK with the fault gate open -/

theorem perform_maskRow (hf : s.fault = .noFault) (line : ByteString) :
    perform (.maskRow line) s = ((acceptLine s line).1, .single (maskRowResult (acceptLine s line).2)) := by
  rw [perform, maskRowOp, gate_noFault hf, asSingle]

theorem perform_decodeMask (hf : s.fault = .noFault) (payload : ByteString) :
    perform (.decodeMask payload) s = ((acceptLines s (splitLines payload)).1,
      .single (decodeMaskResult (acceptLines s (splitLines payload)).2)) := by
  rw [perform, decodeMaskOp, gate_noFault hf, asSingle]

/-- MASK_ROW of every line is the accumulation of the lines, each completed frame in the reply of its line: by
induction on the lines, as the accumulation keeps the gate open. -/
theorem performAll_maskRow (hf : s.fault = .noFault) (ls : List ByteString) :
    (performAll (ls.map .maskRow) s).1 = (acceptLines s ls).1 ∧
    (performAll (ls.map .maskRow) s).2.flatMap framesOfReply = (acceptLines s ls).2 := by
  induction ls generalizing s with
  | nil => exact ⟨rfl, rfl⟩
  | cons line rest ih =>
    obtain ⟨hstate, hframes⟩ := ih (s := (acceptLine s line).1) (by rw [acceptLine_fault, hf])
    rw [List.map_cons, performAll_cons, perform_maskRow hf, acceptLines_cons, List.flatMap_cons, hframes,
      framesOfReply, framesOf_maskRowResult]
    exact ⟨hstate, rfl⟩

theorem decodeMaskResult_of_ne_nil {fs : List PixelFrame} (h : fs ≠ []) :
    decodeMaskResult fs = .ok (.maskFrames fs) := by
  cases fs with
  | nil => contradiction
  | cons f fs => rfl

/-- Settles O34: the lines of the joined payload are the lines that were joined. -/
theorem decodeMaskIsMaskRowOfEveryLine : Obligations.DecodeMaskIsMaskRowOfEveryLine := by
  intro ls s ⟨hs, hf⟩ hne hfree
  have hlines : splitLines (List.intercalate [0x0A] ls) = ls :=
    (splitLines_eq_splitOn _).trans (List.splitOn_intercalate newline hfree hne)
  obtain ⟨hstate, hframes⟩ := performAll_maskRow hf ls
  have hkept := performAll_replies (ls.map .maskRow) s
  have hexec := exec_of_configured hs (.decodeMask (List.intercalate [0x0A] ls))
  rw [perform_decodeMask hf, hlines, ← hstate, ← hframes] at hexec
  refine ⟨_, _, _, _, hexec, issue_of_configured hs _, rfl, congrArg (· ++ _) hkept, congrArg (· ++ _) hkept,
    fun hnone => by rw [hnone]; rfl, decodeMaskResult_of_ne_nil⟩

/-- Settles O35: the lines of the joined payload are those of the first and then those of the second. -/
theorem decodeMaskOfJoinedPayloads : Obligations.DecodeMaskOfJoinedPayloads := by
  intro p q s ⟨hs, hf⟩
  have hlines : splitLines (p ++ [0x0A] ++ q) = splitLines p ++ splitLines q := by
    rw [List.append_assoc]
    exact splitLines_append_newline p q
  generalize hp : splitLines p = first at hlines
  have hjoined : performAll [.decodeMask (p ++ [0x0A] ++ q)] s =
      ((acceptLines (acceptLines s first).1 (splitLines q)).1, [.single (decodeMaskResult
        ((acceptLines s first).2 ++ (acceptLines (acceptLines s first).1 (splitLines q)).2))]) := by
    rw [performAll_cons, perform_decodeMask hf, hlines, acceptLines_append]
    rfl
  have hparts : performAll [.decodeMask p, .decodeMask q] s =
      ((acceptLines (acceptLines s first).1 (splitLines q)).1,
        [.single (decodeMaskResult (acceptLines s first).2),
          .single (decodeMaskResult (acceptLines (acceptLines s first).1 (splitLines q)).2)]) := by
    rw [performAll_cons, perform_decodeMask hf, hp, performAll_cons,
      perform_decodeMask (acceptLines_unfaulted hf first)]
    rfl
  obtain ⟨hissue, hreplies⟩ := issue_eq_of_performAll_eq hs hjoined
  obtain ⟨hissueParts, -⟩ := issue_eq_of_performAll_eq hs hparts
  refine ⟨_, _, _, _, hissue, hissueParts, rfl, congrArg (· ++ _) hreplies, congrArg (· ++ _) hreplies, ?_⟩
  simp only [List.flatMap_cons, List.flatMap_nil, framesOfReply, framesOf_decodeMaskResult, List.append_nil]

/-! ## MASK_ROW line by line -/

theorem exec_maskRow_of_ready (hready : s.Ready) (line : ByteString) :
    exec (.maskRow line) s =
      .next ((acceptLine s line).1.post (.single (maskRowResult (acceptLine s line).2))) := by
  obtain ⟨hs, hf⟩ := hready
  rw [exec_of_configured hs, perform_maskRow hf]

/-- Settles O32: the decoder's code 5, the gate, then the three arms of the accumulation. -/
theorem maskRowAccumulatesValidRows : Obligations.MaskRowAccumulatesValidRows := by
  refine ⟨fun c hop hlength => ?decoded, fun line s hs hf => ?faulted, fun line s hready => ?_⟩
  case decoded => exact (decodeCommand_maskRow hop).trans (withByteString_fits (operandFits_iff.mpr hlength) _)
  case faulted =>
    rw [exec_of_configured hs, perform, maskRowOp, gate_bufOverflow hf]
    rfl
  rw [exec_maskRow_of_ready hready]
  refine ⟨fun hinvalid => ?dropped, fun hlength hchars hroom => ?accumulated,
    fun hlength hchars hlast => ?completed⟩
  case dropped => rw [acceptLine_of_invalid hinvalid]; rfl
  case accumulated => rw [acceptLine_of_room hlength hchars hroom]; rfl
  case completed =>
    rw [acceptLine_of_last hlength hchars hlast, maskPixelFrame, List.flatten_append, List.flatten_singleton]
    rfl

/-! ## A short row, a row with a `'2'`, and a valid row -/

/-- Settles O36: the first two lines leave the state as it was, and the third is the first row. -/
theorem onlyTheValidRowCounts : Obligations.OnlyTheValidRowCounts := by
  intro l1 l2 l3 s ⟨hs, hf⟩ hempty hheight hshort hfree1 hfree2 htwo hlength hchars
  have hdropped1 : acceptLine s l1 = (s, none) := acceptLine_of_invalid fun ⟨hlen, _⟩ => by omega
  have hdropped2 : acceptLine s l2 = (s, none) :=
    acceptLine_of_invalid fun ⟨_, hvalid⟩ => absurd (hvalid 0x32 htwo) (by decide)
  have haccepted : acceptLine s l3 = (s.setMaskRows [rowOfLine l3], none) := by
    rw [acceptLine_of_room hlength hchars (by rw [hempty, List.length_nil]; omega), hempty, List.nil_append]
  have hlines : splitLines (l1 ++ [0x0A] ++ l2 ++ [0x0A] ++ l3) = [l1, l2, l3] := by
    have hfree3 : newline ∉ l3 := fun hmem => absurd (hchars newline hmem) (by decide)
    have hjoined : l1 ++ [0x0A] ++ l2 ++ [0x0A] ++ l3 = l1 ++ newline :: (l2 ++ newline :: l3) := by
      simp [newline]
    rw [hjoined, splitLines_append_newline, splitLines_append_newline, splitLines_of_newline_free hfree1,
      splitLines_of_newline_free hfree2, splitLines_of_newline_free hfree3]
    rfl
  constructor
  · rw [issue_of_configured hs]
    simp only [performAll_cons, performAll_nil, perform_maskRow hf, hdropped1, hdropped2, haccepted]
    rfl
  · rw [exec_of_configured hs, perform_decodeMask hf, hlines]
    simp only [acceptLines_cons, acceptLines_nil, hdropped1, hdropped2, haccepted]
    rfl

end Sys2Proof.Machine
end

section
/-! PROOFS. The family 43_system: STATUS, the reserved codes, PIPE over one attempt, and RUN read by read
(spec/43_system.md R161, R162, R164, R167 to R169). -/

namespace Sys2Proof.Machine

variable {i : Instr} {s t : State}

/-- An instruction that issues nothing that RESET must have preceded completes on every block (log 3, log 11). -/
theorem exec_of_not_needsReset (hi : needsReset i = false) (s : State) :
    exec i s = .next ((perform i s).1.post (perform i s).2) :=
  exec_eq_next_iff.mpr ⟨by rw [hi, Bool.not_false, Bool.or_true], rfl⟩

section
variable {rs : List Reply} (ht : t.replies = rs) (r : Reply)
include ht

/-- A reply taken back: with the replies it had before, the block is as it was before the reply (log 2). -/
theorem State.post_withReplies : { t.post r with replies := rs } = t := by
  rw [← ht]
  rfl

/-- A reply exchanged for another one (log 2). -/
theorem State.post_withReply (r' : Reply) : { t.post r with replies := rs ++ [r'] } = t.post r' := by
  rw [← ht]
  rfl

end

/-! ## STATUS and the reserved codes -/

/-- Settles O9: the decoder's code 6, and the operation, which leaves its state. -/
theorem statusReturnsTheStatusTuple : Obligations.StatusReturnsTheStatusTuple :=
  ⟨fun _ hop => decodeCommand_status hop, fun _ hs => exec_of_configured hs .status⟩

/-- Settles O10: code 7 has a row of its own, the codes from 8 on share one, and neither needs a RESET. -/
theorem reservedCodesReturnIllegalOp : Obligations.ReservedCodesReturnIllegalOp := by
  intro c s hcode
  rcases Nat.eq_or_lt_of_le hcode with hseven | hblock
  · exact ⟨_, decodeCommand_reserved7 (BitVec.eq_of_toNat_eq hseven.symm), exec_of_not_needsReset rfl s⟩
  · exact ⟨_, decodeCommand_reserved8to15 hblock, exec_of_not_needsReset rfl s⟩

/-! ## PIPE -/

theorem frameOf_eq_some_iff {r : Result} {f : RawFrame} : frameOf r = some f ↔ r = .ok (.rawFrame f) := by
  cases r with
  | ok v => cases v <;> simp [frameOf]
  | _ => simp [frameOf]

theorem tryExtractOp_configured (hs : s.configured = true) : (tryExtractOp s).1.configured = true :=
  perform_configured hs .tryExtract

theorem tryExtractOp_cfg (s : State) : (tryExtractOp s).1.cfg = s.cfg := by
  obtain ⟨n, v, -, hdrop⟩ := tryExtractOp_drops s
  rw [hdrop, State.setSync_cfg, State.dropFront_cfg]

/-- The decode instruction that `cfg.FORMAT` selects (43_system.md R164). -/
def decodeFrameInstr (c : Cfg) (payload : ByteString) : Instr :=
  match c.format with
  | .rgb565 => .decodeRgb565 payload (frameBytes c)
  | .mask => .decodeMask payload

theorem decodeFrameInstr_of_rgb565 {c : Cfg} (h : c.format = .rgb565) (payload : ByteString) :
    decodeFrameInstr c payload = .decodeRgb565 payload (frameBytes c) := by
  rw [decodeFrameInstr, h]

theorem decodeFrameInstr_of_mask {c : Cfg} (h : c.format = .mask) (payload : ByteString) :
    decodeFrameInstr c payload = .decodeMask payload := by
  rw [decodeFrameInstr, h]

theorem perform_decodeFrameInstr (payload : ByteString) (s : State) :
    perform (decodeFrameInstr s.cfg payload) s = asSingle (decodeFrameOp payload s) := by
  cases hformat : s.cfg.format with
  | rgb565 => rw [decodeFrameInstr_of_rgb565 hformat, perform, decodeFrameOp, hformat]
  | mask => rw [decodeFrameInstr_of_mask hformat, perform, decodeFrameOp, hformat]

/-- PIPE where the attempt yields no frame is the attempt (43_system.md R164). -/
theorem exec_pipe_of_no_frame (hs : s.configured = true) (h : frameOf (tryExtractOp s).2 = none) :
    exec .pipe s = exec .tryExtract s := by
  rcases pipeOp_cases s with ⟨-, hop⟩ | ⟨f, hsome, -⟩
  · rw [exec_of_configured hs, exec_of_configured hs, perform, perform, hop]
  · rw [h] at hsome
    cases hsome

/-- PIPE where the attempt yields a frame is the decode of its payload, on the block that the attempt leaves
(43_system.md R164). -/
theorem exec_pipe_of_frame {f : RawFrame} (hs : s.configured = true)
    (h : (tryExtractOp s).2 = .ok (.rawFrame f)) :
    exec .pipe s = exec (decodeFrameInstr s.cfg f.payload) (tryExtractOp s).1 := by
  rw [exec_of_configured hs, exec_of_configured (tryExtractOp_configured hs), perform,
    pipeOp_of_frame (Prod.ext rfl h), ← tryExtractOp_cfg s, perform_decodeFrameInstr]

/-- Settles O37, by whether the attempt yields a frame. -/
theorem pipeDecodesTheExtractedFrame : Obligations.PipeDecodesTheExtractedFrame := by
  intro s hs
  have htry := exec_of_configured hs .tryExtract
  have hpipe := exec_of_configured hs .pipe
  refine ⟨_, (tryExtractOp s).2, htry, ?replies, fun hnone => ?unframed, fun f hframe =>
    ⟨_, hpipe, fun hformat => ?rgb565, fun hformat => ?mask⟩⟩
  case replies => exact congrArg (· ++ _) (perform_replies .tryExtract s)
  case unframed =>
    rw [exec_pipe_of_no_frame hs (Option.eq_none_iff_forall_ne_some.mpr fun f hsome =>
      hnone f (frameOf_eq_some_iff.mp hsome)), htry]
  case rgb565 =>
    rw [State.post_withReplies (perform_replies .tryExtract s), ← hpipe, exec_pipe_of_frame hs hframe,
      decodeFrameInstr_of_rgb565 hformat]
    rfl
  case mask =>
    rw [State.post_withReplies (perform_replies .tryExtract s), ← hpipe, exec_pipe_of_frame hs hframe,
      decodeFrameInstr_of_mask hformat]
    rfl

/-! ## RUN -/

/-- Settles O39: at the stop signal and at a closed source RUN issues nothing, so it is defined on every block. -/
theorem runStopsBeforeItsFirstRead : Obligations.RunStopsBeforeItsFirstRead := by
  intro rest s
  constructor
  · rw [exec_of_not_needsReset rfl, perform, runOp_nil]
    rfl
  · rw [exec_of_not_needsReset rfl, perform, runOp_closed]
    rfl

theorem exec_run_of_configured (hs : s.configured = true) (reads : List SourceRead) :
    exec (.run reads) s = .next ((runOp reads s).1.post (.loop (runOp reads s).2)) :=
  exec_of_configured hs (.run reads)

theorem runOp_replies (reads : List SourceRead) (s : State) : (runOp reads s).1.replies = s.replies :=
  perform_replies (.run reads) s

/-- The `repeat` of an unfaulted block drains its buffer and is left (43_system.md R167). -/
theorem runRepeat_not_failed (hf : s.fault = .noFault) (fuel : Nat) : (runRepeat fuel s).2.2 = false := by
  rw [runRepeat_eq_handleAll hf]

/-- The `repeat` of a faulted block ends the loop at its first attempt (43_system.md R167, 40_synchronizer.md
R100). -/
theorem runRepeat_of_faulted (hf : s.fault = .bufOverflow) (fuel : Nat) :
    runRepeat (fuel + 1) s = (s, [.terminalFault], true) := by
  simp only [runRepeat_succ, runTurn, tryExtractOp, gate_bufOverflow hf]

/-- Where the `repeat` after a chunk is left, RUN goes on with the next read (43_system.md R168). -/
theorem runOp_chunk_of_left {chunk : ByteString} (h : (runChunk chunk s).2.2 = false) (rest : List SourceRead) :
    runOp (.chunk chunk :: rest) s = ((runOp rest (runChunk chunk s).1).1,
      (runChunk chunk s).2.1 ++ (runOp rest (runChunk chunk s).1).2) := by
  rw [runChunk] at h
  simp only [runOp_chunk, runChunk, h]
  rfl

/-- Where the `repeat` after a chunk failed, RUN ends with its events, and the other reads are not made
(43_system.md R167). -/
theorem runOp_chunk_of_failed {chunk : ByteString} (h : (runChunk chunk s).2.2 = true) (rest : List SourceRead) :
    runOp (.chunk chunk :: rest) s = ((runChunk chunk s).1, (runChunk chunk s).2.1) := by
  rw [runChunk] at h
  simp only [runOp_chunk, runChunk, h]
  rfl

/-- The `repeat` after a chunk that fits is left: the block that drains the buffer has not faulted. -/
theorem runChunk_left_of_room {chunk : ByteString} (hf : s.fault = .noFault)
    (hroom : ∀ cap, s.bufCap = some cap → s.buf.length + chunk.length ≤ cap) :
    (runChunk chunk s).2.2 = false := by
  rw [runChunk, feednOp_of_room hf hroom]
  exact runRepeat_not_failed (s := s.appendBytes chunk) hf _

/-- A chunk that overflows the buffer faults the block, and the first attempt after it ends the loop
(40_synchronizer.md R101, 43_system.md R167). -/
theorem runChunk_of_overflow {chunk : ByteString} {room : Nat} (hf : s.fault = .noFault)
    (hcap : s.bufCap = some (s.buf.length + room)) (hlt : room < chunk.length) :
    runChunk chunk s =
      ((s.appendBytes (chunk.take room)).setFault .bufOverflow, [.terminalFault], true) := by
  rw [runChunk, feednOp_of_overflow hf hcap hlt]
  exact runRepeat_of_faulted (State.setFault_fault _ _) _

/-- RUN over one chunk leaves the state and the events of the `repeat` after it, however that ended. -/
theorem runOp_single_chunk (chunk : ByteString) (s : State) :
    runOp [.chunk chunk] s = ((runChunk chunk s).1, (runChunk chunk s).2.1) := by
  rcases runOp_chunk_cases chunk [] s with h | h
  · exact h
  · rw [h, runOp_nil, List.append_nil]

theorem runChunk_replies (chunk : ByteString) (s : State) : (runChunk chunk s).1.replies = s.replies := by
  have h := runOp_replies [.chunk chunk] s
  rwa [runOp_single_chunk] at h

theorem runChunk_configured (hs : s.configured = true) (chunk : ByteString) :
    (runChunk chunk s).1.configured = true := by
  have h : (runOp [.chunk chunk] s).1.configured = true := perform_configured hs (.run [.chunk chunk])
  rwa [runOp_single_chunk] at h

/-- Settles O41: where the chunk fits, its `repeat` is left and RUN goes on in the state that it leaves; where it
overflows, the first attempt after it fails. -/
theorem runReadsUntilStoppedOrFaulted : Obligations.RunReadsUntilStoppedOrFaulted := by
  intro chunk rest s ⟨hs, hf⟩
  refine ⟨fun hroom => ?fits, fun room hcap hlt => ?overflows⟩
  case fits =>
    have hreplies := runChunk_replies chunk s
    have hfirst := exec_run_of_configured hs [.chunk chunk]
    have hlater := exec_run_of_configured (runChunk_configured hs chunk) rest
    have hlaterReplies := (runOp_replies rest (runChunk chunk s).1).trans hreplies
    rw [runOp_single_chunk] at hfirst
    refine ⟨_, _, (runChunk chunk s).2.1, (runOp rest (runChunk chunk s).1).2, hfirst, ?_,
      (congrArg (exec (.run rest)) (State.post_withReplies hreplies _)).trans hlater, ?_, ?_⟩
    · rw [State.post_replies, hreplies]
    · rw [State.post_replies, hlaterReplies]
    · rw [exec_run_of_configured hs, runOp_chunk_of_left (runChunk_left_of_room hf hroom),
        State.post_withReply hlaterReplies]
  case overflows =>
    have hchunk := runChunk_of_overflow hf hcap hlt
    rw [exec_run_of_configured hs, runOp_chunk_of_failed (by rw [hchunk]), hchunk]
    rfl

end Sys2Proof.Machine
end

section
/-! PROOFS. The family 60_exceptions: the truncation warning, the sticky fault, and the one reply of every
instruction (spec/60_exceptions.md R180, R185, R187). -/

namespace Sys2Proof.Machine

variable {i : Instr} {s t : State}

/-! ## The truncation warning -/

/-- Every result of the three stages carries the warning: set where the payload was cut, and not set where stage 1
rejected a short one (60_exceptions.md R185). -/
theorem rgb565Result_cases (c : Cfg) (payload : ByteString) (size : Nat) :
    (∃ f, rgb565Result c payload size = .ok (.rgbFrame f (decide (size < payload.length)))) ∨
    rgb565Result c payload size = .malformedPayload (decide (size < payload.length)) ∨
    rgb565Result c payload size = .sizeMismatch (decide (size < payload.length)) := by
  by_cases hsurvives : size ≤ payload.length ∨ c.shortPolicy = .pad
  · rcases Nat.mod_two_eq_zero_or_one size with heven | hodd
    · by_cases hsize : c.width * c.height * 2 = size
      · exact .inl ⟨_, rgb565Result_of_frame_size hsize hsurvives⟩
      · exact .inr (.inr (rgb565Result_of_wrong_size hsurvives heven (Ne.symm hsize)))
    · exact .inr (.inl (rgb565Result_of_odd_size hsurvives hodd))
  · obtain ⟨hshort, hpolicy⟩ := not_or.mp hsurvives
    have hreject : c.shortPolicy = .reject := by
      cases h : c.shortPolicy with
      | reject => rfl
      | pad => exact absurd h hpolicy
    rw [decide_eq_false (by omega)]
    exact .inr (.inr (rgb565Result_of_short (by omega) hreject))

theorem truncatedOf_rgb565Result (c : Cfg) (payload : ByteString) (size : Nat) :
    truncatedOf (rgb565Result c payload size) = some (decide (size < payload.length)) := by
  rcases rgb565Result_cases c payload size with ⟨_, h⟩ | h | h <;> rw [h] <;> rfl

/-- Settles O29: through an open gate the result is that of the three stages, and through a closed one it is
`FAULT`. -/
theorem truncationWarningAccompaniesEveryRgbResult : Obligations.TruncationWarningAccompaniesEveryRgbResult := by
  intro payload size s hs
  refine ⟨_, exec_decodeRgb565_of_configured hs payload size, fun hf => ?warning, fun hf => ?faulted,
    fun hf htruncated => ?truncated⟩
  case warning =>
    rw [decodeRgb565Op, gate_noFault hf]
    exact truncatedOf_rgb565Result s.cfg payload size
  case faulted =>
    rw [decodeRgb565Op, gate_bufOverflow hf]
    exact ⟨rfl, rfl⟩
  case truncated =>
    rw [decodeRgb565Op, gate_noFault hf, ← decide_eq_true htruncated]
    exact rgb565Result_cases s.cfg payload size

/-! ## The faulted block -/

/-- Every write needs an open gate, so a faulted block is not written to (60_exceptions.md R187). -/
theorem Evolves.eq_of_faulted (hs : s.fault = .bufOverflow) (h : Evolves i s t) : t = s := by
  have hclosed {u : State} (hu : u = s) (hopen : u.fault = .noFault) : False := by
    rw [hu, hs] at hopen
    cases hopen
  induction h with
  | refl => rfl
  | append _ _ hopen _ _ ih | overflow _ hopen _ _ ih | extract _ _ _ hopen _ _ ih | accept _ _ hopen _ ih =>
    exact (hclosed ih hopen).elim

theorem perform_of_faulted (hs : s.fault = .bufOverflow) (hi : isReset i = false) : (perform i s).1 = s :=
  (perform_evolves hi s).eq_of_faulted hs

/-- An operation behind the fault gate returns `FAULT` in a faulted block, whatever its body
(40_synchronizer.md R100). -/
theorem exec_gated_of_faulted {body : Effect} (hconf : s.configured = true) (hs : s.fault = .bufOverflow)
    (hop : perform i s = asSingle (gate s body)) : exec i s = .next (s.post (.single .fault)) := by
  rw [exec_of_configured hconf, hop, gate_bufOverflow hs]
  rfl

theorem exec_reset_of_wellFormed {c : Cfg} (hc : cfgWellFormed c = true) (s : State) :
    exec (.reset c) s = .next ((s.load c).post (.single (.ok .nothing))) := by
  rw [exec_of_not_needsReset rfl, perform_reset, resetOp, if_pos hc]
  rfl

/-- Settles O43: the writes of the operations an instruction issues all need an open gate, and the reply is no part
of what is compared. -/
theorem onlyResetLeavesTheFaultedState : Obligations.OnlyResetLeavesTheFaultedState := by
  intro i s t h hs hi
  obtain ⟨-, rfl⟩ := exec_eq_next_iff.mp h
  rw [State.post_withoutReplies, perform_of_faulted hs hi]

/-- Settles O42: the five gated operations, then those that R187 lets through the gate, then every instruction that
is not RESET. -/
theorem faultStaysUntilReset : Obligations.FaultStaysUntilReset := by
  intro s hconf hs
  refine ⟨?gated, ?status, ?reserved, fun c hc => ?reset, fun i t h hi => ?sticky⟩
  case gated =>
    rintro i (⟨b, rfl⟩ | rfl | ⟨payload, size, rfl⟩ | ⟨payload, rfl⟩ | ⟨line, rfl⟩) <;>
      exact exec_gated_of_faulted hconf hs rfl
  case status =>
    rw [← hs]
    exact exec_of_configured hconf .status
  case reserved =>
    rintro i (rfl | ⟨low, rfl⟩) <;> exact exec_of_not_needsReset rfl s
  case reset =>
    rw [exec_reset_of_wellFormed hc, hconf]
    rfl
  case sticky =>
    obtain ⟨-, rfl⟩ := exec_eq_next_iff.mp h
    rw [State.post_fault, perform_of_faulted hs hi, hs]

/-! ## One reply -/

/-- Settles O45: what an instruction does to the state is no write to the replies, and one reply is then posted. -/
theorem everyInstructionReturnsOneReply : Obligations.EveryInstructionReturnsOneReply := by
  intro i s hs
  refine ⟨_, (perform i s).2, exec_of_configured hs i, ?_⟩
  rw [State.post_replies, perform_replies]

end Sys2Proof.Machine
end

section
/-! PROOFS. The family 70_reset_and_hazards: RESET with a well-formed and with an ill-formed configuration
(spec/70_reset_and_hazards.md R211). -/

namespace Sys2Proof.Machine

variable {c : Cfg}

/-- The check that RESET makes, as one conjunction over the fields and the two products (10_state.md R28). -/
theorem cfgWellFormed_iff_fields_and_products :
    cfgWellFormed c = true ↔
      1 ≤ c.width ∧ c.width ≤ 65535 ∧ 1 ≤ c.height ∧ c.height ≤ 65535 ∧ 1 ≤ c.bpp ∧ c.bpp ≤ 255 ∧
        c.width * c.height * c.bpp < 2 ^ 32 ∧ c.width * c.height * 3 < 2 ^ 32 := by
  simp only [cfgWellFormed_iff, and_assoc, sizeLimit, Nat.reducePow]

theorem exec_reset_of_not_wellFormed (hc : ¬ cfgWellFormed c = true) (s : State) :
    exec (.reset c) s = .next (s.post (.single .refusedCfg)) := by
  rw [exec_of_not_needsReset rfl, perform_reset, resetOp, if_neg hc]
  rfl

/-- Settles O7: the decoder's code 0, then RESET on either side of its check; `State.load` writes exactly the
reset values. -/
theorem resetLoadsTheResetValuesOrRefuses : Obligations.ResetLoadsTheResetValuesOrRefuses := by
  refine ⟨fun _ hop => decodeCommand_reset hop, fun c s => ⟨fun hlegal => ?loaded, fun hillegal => ?refused⟩⟩
  case loaded =>
    have hc : cfgWellFormed c = true := cfgWellFormed_iff_fields_and_products.mpr hlegal
    exact exec_reset_of_wellFormed hc s
  case refused =>
    have hc : ¬ cfgWellFormed c = true := mt cfgWellFormed_iff_fields_and_products.mp hillegal
    exact exec_reset_of_not_wellFormed hc s

end Sys2Proof.Machine
end
